-- ==== Sys2Proof/Word.lean ====
section
/-! DEFINITION. The machine's widths (00_scope.md R6, R10). -/

namespace Sys2Proof

/-- A data word: a register, a table entry, a block half (00_scope.md R6). -/
abbrev Word := BitVec 32

/-- A byte: a GF operand or result (00_scope.md R6). -/
abbrev Byte := BitVec 8

/-- A GF modulus, 9 bits (00_scope.md R6). -/
abbrev Modulus := BitVec 9

/-- A key-buffer word, 16 bits (00_scope.md R6; 10_state.md R36). -/
abbrev Half := BitVec 16

/-- A subkey word's significant bits, 20 (00_scope.md R6). -/
abbrev Key20 := BitVec 20

end Sys2Proof
end

