-- ==== Sys2Proof/Syntax.lean ====
section
/-! DEFINITION. The twelve commands of ICE-CORE, one constructor a row of spec/opcode_table.json (30_encoding.md R75).
The only values a command word carries are the unsigned indices t, i, c and w (30_encoding.md R74); WellFormed.lean
bounds them to their fields. -/

namespace Sys2Proof

/-- A decoded command. The constructor's docstring gives its mnemonic, opcode and rule. -/
inductive Instr where
  /-- NOP, OPC 0x00, format Z (46_control.md R190). -/
  | nop
  /-- GF.MUL, OPC 0x01, format Z (40_gf_arith.md R92). -/
  | gfMul
  /-- GF.EXP7, OPC 0x02, format Z (40_gf_arith.md R93). -/
  | gfExp7
  /-- SCATTER, OPC 0x03, format Z (41_scatter.md R101). -/
  | scatter
  /-- SBOX.BUILD, OPC 0x04, format Z (42_sbox.md R114). -/
  | sboxBuild
  /-- SBOX.READ, OPC 0x05, format S: table number t and table index i (42_sbox.md R115). -/
  | sboxRead (t i : Nat)
  /-- CTX.CONFIG, OPC 0x06, format Z (43_keysched.md R133). -/
  | ctxConfig
  /-- KEY.CHUNK, OPC 0x07, format C: key-chunk index c (43_keysched.md R134). -/
  | keyChunk (c : Nat)
  /-- KS.READ, OPC 0x08, format W: subkey word select w (43_keysched.md R135). -/
  | ksRead (w : Nat)
  /-- ROUND.F, OPC 0x09, format Z (44_round.md R163). -/
  | roundF
  /-- ENCRYPT, OPC 0x0A, format Z (45_feistel.md R174). -/
  | encrypt
  /-- DECRYPT, OPC 0x0B, format Z (45_feistel.md R175). -/
  | decrypt
  deriving DecidableEq, Repr

end Sys2Proof
end

