-- ==== Sys2Proof/WellFormed.lean ====
section
/-! DEFINITION. Which commands have an encoding: every index fits its field (30_encoding.md R72, R78). -/

namespace Sys2Proof

/-- An index fits its field: t in 2 bits, i in 10, c in 16, w in 2. `KS.READ` with w = 3 is well formed; it raises
E_RANGE when it runs (30_encoding.md R72). -/
def Instr.wellFormed : Instr → Bool
  | .nop | .gfMul | .gfExp7 | .scatter | .sboxBuild | .ctxConfig | .roundF | .encrypt | .decrypt => true
  | .sboxRead t i => decide (t < 4) && decide (i < 1024)
  | .keyChunk c => decide (c < 65536)
  | .ksRead w => decide (w < 4)

end Sys2Proof
end

