-- ==== Sys2Proof/Decode.lean ====
section
/-! DEFINITION. The command word: decoding (30_encoding.md R77), encoding (R72, R75) and the opcode map as a table of
masks and matches (R75). -/

namespace Sys2Proof

/-- Why a word is no command; each of the three raises E_ILLEGAL (30_encoding.md R76). -/
inductive DecodeError where
  /-- RSV != 0 (30_encoding.md R71). -/
  | rsvNotZero
  /-- OPC is 0x0C to 0xFF (30_encoding.md R76). -/
  | reservedOpcode
  /-- An ARG bit that the format fixes to 0 is 1 (30_encoding.md R72). -/
  | argNotZero
  deriving DecidableEq, Repr

/-- OPC = CMD[7:0] (30_encoding.md R70). -/
def opcField (w : Word) : BitVec 8 := w.extractLsb' 0 8

/-- RSV = CMD[15:8] (30_encoding.md R70). -/
def rsvField (w : Word) : BitVec 8 := w.extractLsb' 8 8

/-- ARG = CMD[31:16] (30_encoding.md R70). -/
def argField (w : Word) : BitVec 16 := w.extractLsb' 16 16

/-- Format Z: ARG = 0 (30_encoding.md R72). -/
def decodeZ (arg : BitVec 16) (i : Instr) : Except DecodeError Instr :=
  if arg = 0 then .ok i else .error .argNotZero

/-- Format S: i = ARG[9:0], t = ARG[11:10], ARG[15:12] = 0 (30_encoding.md R72). -/
def decodeS (arg : BitVec 16) : Except DecodeError Instr :=
  if arg.extractLsb' 12 4 = 0 then .ok (.sboxRead (arg.extractLsb' 10 2).toNat (arg.extractLsb' 0 10).toNat)
  else .error .argNotZero

/-- Format C: c = ARG[15:0] (30_encoding.md R72). -/
def decodeC (arg : BitVec 16) : Except DecodeError Instr :=
  .ok (.keyChunk arg.toNat)

/-- Format W: w = ARG[1:0], ARG[15:2] = 0 (30_encoding.md R72). -/
def decodeW (arg : BitVec 16) : Except DecodeError Instr :=
  if arg.extractLsb' 2 14 = 0 then .ok (.ksRead (arg.extractLsb' 0 2).toNat) else .error .argNotZero

/-- The opcode map: which command and format an OPC selects (30_encoding.md R75, R77). -/
def decodeOpc (opc : Nat) (arg : BitVec 16) : Except DecodeError Instr :=
  match opc with
  | 0x00 => decodeZ arg .nop
  | 0x01 => decodeZ arg .gfMul
  | 0x02 => decodeZ arg .gfExp7
  | 0x03 => decodeZ arg .scatter
  | 0x04 => decodeZ arg .sboxBuild
  | 0x05 => decodeS arg
  | 0x06 => decodeZ arg .ctxConfig
  | 0x07 => decodeC arg
  | 0x08 => decodeW arg
  | 0x09 => decodeZ arg .roundF
  | 0x0A => decodeZ arg .encrypt
  | 0x0B => decodeZ arg .decrypt
  | _ => .error .reservedOpcode

/-- The decoder, total on 32-bit words: RSV first, then OPC and its ARG check (30_encoding.md R77). -/
def decode (w : Word) : Except DecodeError Instr :=
  if rsvField w ≠ 0 then .error .rsvNotZero else decodeOpc (opcField w).toNat (argField w)

/-- A command word from its fields: ARG, RSV = 0, OPC (30_encoding.md R70). -/
def commandWord (arg : BitVec 16) (opc : BitVec 8) : Word := arg ++ (0#8 ++ opc)

/-- The word of a command, from the encoding tables of 30_encoding.md R72 and R75. -/
def encode : Instr → Word
  | .nop => commandWord 0 0x00
  | .gfMul => commandWord 0 0x01
  | .gfExp7 => commandWord 0 0x02
  | .scatter => commandWord 0 0x03
  | .sboxBuild => commandWord 0 0x04
  | .sboxRead t i => commandWord (0#4 ++ (BitVec.ofNat 2 t ++ BitVec.ofNat 10 i)) 0x05
  | .ctxConfig => commandWord 0 0x06
  | .keyChunk c => commandWord (BitVec.ofNat 16 c) 0x07
  | .ksRead w => commandWord (0#14 ++ BitVec.ofNat 2 w) 0x08
  | .roundF => commandWord 0 0x09
  | .encrypt => commandWord 0 0x0A
  | .decrypt => commandWord 0 0x0B

/-- One row of the opcode map of 30_encoding.md R75: a word w selects it when `w &&& mask = pattern`. -/
structure OpcodeRow where
  mnemonic : String
  pattern : Word
  mask : Word
  deriving DecidableEq, Repr

/-- Does the word select the row (30_encoding.md R75)? -/
def OpcodeRow.selects (r : OpcodeRow) (w : Word) : Bool := w &&& r.mask == r.pattern

/-- The opcode map of 30_encoding.md R75, row by row. -/
def opcodeMap : List OpcodeRow :=
  [ ⟨"NOP", 0x00000000, 0xFFFFFFFF⟩,
    ⟨"GF.MUL", 0x00000001, 0xFFFFFFFF⟩,
    ⟨"GF.EXP7", 0x00000002, 0xFFFFFFFF⟩,
    ⟨"SCATTER", 0x00000003, 0xFFFFFFFF⟩,
    ⟨"SBOX.BUILD", 0x00000004, 0xFFFFFFFF⟩,
    ⟨"SBOX.READ", 0x00000005, 0xF000FFFF⟩,
    ⟨"CTX.CONFIG", 0x00000006, 0xFFFFFFFF⟩,
    ⟨"KEY.CHUNK", 0x00000007, 0x0000FFFF⟩,
    ⟨"KS.READ", 0x00000008, 0xFFFCFFFF⟩,
    ⟨"ROUND.F", 0x00000009, 0xFFFFFFFF⟩,
    ⟨"ENCRYPT", 0x0000000A, 0xFFFFFFFF⟩,
    ⟨"DECRYPT", 0x0000000B, 0xFFFFFFFF⟩ ]

/-- The mnemonic of a command as 30_encoding.md R75 spells it. -/
def mnemonic : Instr → String
  | .nop => "NOP"
  | .gfMul => "GF.MUL"
  | .gfExp7 => "GF.EXP7"
  | .scatter => "SCATTER"
  | .sboxBuild => "SBOX.BUILD"
  | .sboxRead _ _ => "SBOX.READ"
  | .ctxConfig => "CTX.CONFIG"
  | .keyChunk _ => "KEY.CHUNK"
  | .ksRead _ => "KS.READ"
  | .roundF => "ROUND.F"
  | .encrypt => "ENCRYPT"
  | .decrypt => "DECRYPT"

/-- The instruction the decoder reads from an opcode-table word of `nbits` bits whose value is `w`, every bit above
`nbits` being 0. A command word is one 32-bit number (30_encoding.md R70), so no byte order enters. -/
def decodeTableWord (nbits w : Nat) : Option Instr :=
  (decode (BitVec.ofNat 32 (w % 2 ^ nbits))).toOption

end Sys2Proof
end

