-- ==== Sys2Proof/Config.lean ====
section
/-! DEFINITION. The implementation parameters the spec leaves OPEN (00_scope.md R7, R8; 92_eei_decisions.md, last table)
and the values it gives to nothing. Each is an uninterpreted constant: no proof can see what it is. -/

namespace Sys2Proof.Config

/-- Uninterpreted: which level the implementation stops at (log entry 2). -/
opaque maxLevelChoice : Nat

/-- MAX_LEVEL, the largest level CTX.CONFIG accepts: some number of 1..4095, every one of them possible
(00_scope.md R7). DESIGN CHOICE of form only: it is written so that the bounds of R7 hold by construction. -/
def maxLevel : Nat := 1 + (maxLevelChoice + 3) % 4095

/-- Uninterpreted: which 64-byte slot of the platform's bus the window takes (log entry 3). -/
opaque iceBaseSlot : Nat

/-- ICE_BASE, the window's base address: some multiple of 64 (00_scope.md R8). -/
def iceBase : Nat := 64 * iceBaseSlot

/-- Free value: what entry i of table t reads as where the SBOX store holds no value (10_state.md R34; log entry 9). -/
opaque sboxNoValue : Nat → Nat → Word

/-- Free value: what word w of round r reads as where the KS store holds no value (10_state.md R35; log entry 10). -/
opaque ksNoValue : Nat → Nat → Word

end Sys2Proof.Config
end

