-- ==== Sys2Proof/Machine/State.lean ====
section
/-! DEFINITION. The state of ICE-CORE (10_state.md), the inputs of the host and the platform, the reasons a step can
stop, and the state after reset (10_state.md R39; 70_reset_and_hazards.md R231). -/

namespace Sys2Proof.Machine

/-- The outcome of the latest command, STATUS.ERR: the nine codes of 60_exceptions.md R200. Codes 9 to 15 are never
produced and have no name here (log entry 12). -/
inductive ErrCode where
  /-- 0: the command succeeded. -/
  | success
  /-- 1, E_ILLEGAL: the command word is illegal. -/
  | illegal
  /-- 2, E_MODULUS: OP2[8] = 0. -/
  | modulus
  /-- 3, E_NO_TABLES: SBOX_VALID = 0. -/
  | noTables
  /-- 4, E_NO_CONTEXT: CFG_VALID = 0. -/
  | noContext
  /-- 5, E_NO_KEY: KS_VALID = 0. -/
  | noKey
  /-- 6, E_KEY_SEQ: the key chunk is out of order or beyond the key. -/
  | keySeq
  /-- 7, E_LEVEL: the level is larger than MAX_LEVEL. -/
  | level
  /-- 8, E_RANGE: the subkey index is out of range. -/
  | range
  deriving DecidableEq, Repr

/-- The fields of STATUS (10_state.md R24). Flags.lean assembles the word; its reserved bits are hard-wired to 0. -/
structure Status where
  /-- ERR (10_state.md R26). -/
  err : ErrCode
  /-- STICKY (10_state.md R27). -/
  sticky : Bool
  /-- SBOX_VALID (10_state.md R29). -/
  sboxValid : Bool
  /-- CFG_VALID (10_state.md R30). -/
  cfgValid : Bool
  /-- KS_VALID (10_state.md R31). -/
  ksValid : Bool
  /-- DEGEN (10_state.md R32). -/
  degen : Bool
  /-- NEXT_CHUNK (10_state.md R33). -/
  nextChunk : BitVec 16
  deriving DecidableEq, Repr

/-- The fields of CTXCFG (10_state.md R28). -/
structure CtxCfg where
  /-- SIZE, CTXCFG[15:0]. -/
  size : BitVec 16
  /-- ROUNDS, CTXCFG[31:16]. -/
  rounds : BitVec 16
  deriving DecidableEq, Repr

/-- One round's entry of the key schedule: KS[r][0], KS[r][1], KS[r][2] (10_state.md R35). -/
structure Subkey where
  w0 : Word
  w1 : Word
  w2 : Word
  deriving DecidableEq, Repr

/-- The key-schedule store: the rounds that hold a value, each with its entry, rounds strictly rising. A round that is
not listed holds no value (10_state.md R35). -/
abbrev KeySchedule := List (Nat × Subkey)

/-- The substitution tables: four tables of 1024 words (10_state.md R34). -/
abbrev SboxTables := List (List Word)

/-- The key buffer KB[0..3] (10_state.md R36). -/
structure KeyBuffer where
  kb0 : Half
  kb1 : Half
  kb2 : Half
  kb3 : Half
  deriving DecidableEq, Repr

/-- The nine registers of the window (10_state.md R20). -/
inductive WindowReg where
  | cmd | status | ctxcfg | op0 | op1 | op2 | op3 | res0 | res1
  deriving DecidableEq, Repr

/-- What the outside does to the machine. Offsets are from ICE_BASE (00_scope.md R8), widths in bytes (00_scope.md R12). -/
inductive Input where
  /-- A host bus read of `bytes` bytes at `offset`: MemRead(off, n). -/
  | read (offset bytes : Nat)
  /-- A host bus write of `bytes` bytes at `offset`: MemWrite(off, n, v). -/
  | write (offset bytes : Nat) (data : Word)
  /-- The platform asserts and releases reset (70_reset_and_hazards.md R230; log entry 7). -/
  | reset
  deriving DecidableEq, Repr

/-- Why a step stops with a fault: the bus errors of 20_memory.md R54, which have no defined continuation
(92_eei_decisions.md D41). Each is raised by `step` on a host access, never by a command, and each is safe: the hardware
signals the error in a platform-defined way and its state is unchanged (log entry 4). -/
inductive Fault where
  /-- The access is not 32 bits wide. Raised by `step`; safe. -/
  | busWidth
  /-- The access is not 4-byte aligned. Raised by `step`; safe. -/
  | busMisaligned
  /-- The offset holds no register. Raised by `step`; safe. -/
  | busUnmapped
  /-- A write to STATUS, CTXCFG, RES0 or RES1. Raised by `step`; safe. -/
  | busReadOnly
  /-- A read of CMD. Raised by `step`; safe. -/
  | busWriteOnly
  deriving DecidableEq, Repr

/-- Why an instruction has no meaning. No arm of `exec` answers with it. -/
inductive Refusal where
  /-- The instruction of this mnemonic has no meaning in the model yet. Raised by no arm of `exec`; safe. -/
  | notModelled (mnemonic : String)
  deriving DecidableEq, Repr

/-- The state of ICE-CORE, every piece of 10_state.md, and the model's own fields at the end. -/
structure State where
  /-- STATUS (10_state.md R24). -/
  status : Status
  /-- CTXCFG (10_state.md R28). -/
  ctxcfg : CtxCfg
  /-- OP0 to OP3, the operand registers (10_state.md R21). -/
  op0 : Word
  op1 : Word
  op2 : Word
  op3 : Word
  /-- RES0 and RES1, the result registers (10_state.md R22). -/
  res0 : Word
  res1 : Word
  /-- SBOX, none where the store holds no value (10_state.md R34). -/
  sbox : Option SboxTables
  /-- KS (10_state.md R35). -/
  ks : KeySchedule
  /-- KB (10_state.md R36). -/
  kb : KeyBuffer
  /-- MAX_LEVEL, the implementation's parameter (00_scope.md R7); no step writes it (log entry 2). -/
  maxLevel : Nat
  /-- What the outside will do, oldest first (46_control.md R192; log entry 1). -/
  inputs : List Input
  /-- The index of the next host access (10_state.md R25; log entry 1). -/
  hostPc : Nat
  /-- What the host's reads returned, oldest first (30_encoding.md R78; log entry 1). -/
  observed : List Word
  deriving DecidableEq, Repr

/-- STATUS = 0x00000000 (10_state.md R39). -/
def Status.reset : Status :=
  { err := .success, sticky := false, sboxValid := false, cfgValid := false, ksValid := false, degen := false,
    nextChunk := 0 }

/-- The state right after reset (10_state.md R39; 70_reset_and_hazards.md R231, R232). The spec gives KB no value:
zero is a DESIGN CHOICE (log entry 8). MAX_LEVEL is uninterpreted (log entry 2). -/
def State.reset : State :=
  { status := Status.reset, ctxcfg := ⟨0, 0⟩,
    op0 := 0, op1 := 0, op2 := 0, op3 := 0, res0 := 0, res1 := 0,
    sbox := none, ks := [], kb := ⟨0, 0, 0, 0⟩,
    maxLevel := Config.maxLevel, inputs := [], hostPc := 0, observed := [] }

end Sys2Proof.Machine
end

