-- ==== Sys2Proof/Machine/Flags.lean ====
section
/-! DEFINITION. The words of STATUS and CTXCFG as a host reads them (10_state.md R24, R28) and every flag a command
writes besides ERR and STICKY (10_state.md R40, R41). ICE-CORE has no other flag. -/

namespace Sys2Proof.Machine

/-- The code of 60_exceptions.md R200, 4 bits. -/
def errBits : ErrCode → BitVec 4
  | .success => 0
  | .illegal => 1
  | .modulus => 2
  | .noTables => 3
  | .noContext => 4
  | .noKey => 5
  | .keySeq => 6
  | .level => 7
  | .range => 8

/-- STATUS[15:0]: 15:12 reserved, DEGEN, KS_VALID, CFG_VALID, SBOX_VALID, 7:5 reserved, STICKY, ERR (10_state.md R24). -/
def statusLow (f : Status) : BitVec 16 :=
  0#4 ++ (BitVec.ofBool f.degen ++ (BitVec.ofBool f.ksValid ++ (BitVec.ofBool f.cfgValid ++
    (BitVec.ofBool f.sboxValid ++ (0#3 ++ (BitVec.ofBool f.sticky ++ errBits f.err))))))

/-- STATUS as one word: NEXT_CHUNK in 31:16 above `statusLow` (10_state.md R24). -/
def statusWord (f : Status) : Word := f.nextChunk ++ statusLow f

/-- CTXCFG as one word: ROUNDS in 31:16, SIZE in 15:0 (10_state.md R28). -/
def ctxcfgWord (c : CtxCfg) : Word := c.rounds ++ c.size

/-- SBOX.BUILD's flag: SBOX_VALID <- 1 (10_state.md R29). -/
def flagsAfterBuild (f : Status) : Status := { f with sboxValid := true }

/-- CTX.CONFIG's flags: CFG_VALID <- 1, DEGEN, KS_VALID <- 0, NEXT_CHUNK <- 0 (10_state.md R40). -/
def flagsAfterConfig (f : Status) (degen : Bool) : Status :=
  { f with cfgValid := true, degen := degen, ksValid := false, nextChunk := 0 }

/-- KS_VALID after chunk c of a key of `size` chunks: 1 when it is the last, else 0 when it is the first, else as it was
(10_state.md R31; 43_keysched.md R134). -/
def ksValidAfterChunk (size c : Nat) (before : Bool) : Bool :=
  if c + 1 = size then true else if c = 0 then false else before

/-- KEY.CHUNK's flags: NEXT_CHUNK <- c + 1 and KS_VALID (10_state.md R31, R33). -/
def flagsAfterChunk (f : Status) (size c : Nat) : Status :=
  { f with nextChunk := BitVec.ofNat 16 (c + 1), ksValid := ksValidAfterChunk size c f.ksValid }

end Sys2Proof.Machine
end

