-- ==== Sys2Proof/Machine/Ops.lean ====
section
/-! DEFINITION. The shared operations: ending a command (00_scope.md R12; 60_exceptions.md R202), the result registers,
the internal stores (20_memory.md R66) and the platform's reset (70_reset_and_hazards.md R231). -/

namespace Sys2Proof.Machine

/-- What a step answers. -/
abbrev Result := Host.Outcome State Fault Refusal

/-- `raise E`: STATUS.ERR <- code, STATUS.STICKY <- 1, nothing else. The one error operation of the machine
(60_exceptions.md R202, R203); there is no trap and no return from one (R209, R210). -/
def State.raise (s : State) (e : ErrCode) : State :=
  { s with status := { s.status with err := e, sticky := true } }

/-- `done`: STATUS.ERR <- 0, STICKY as it was (00_scope.md R12; 10_state.md R26, R27). -/
def State.done (s : State) : State :=
  { s with status := { s.status with err := .success } }

/-- A command that ends with `raise E`: the machine goes on (60_exceptions.md R202). -/
def failWith (e : ErrCode) (s : State) : Result := .next (s.raise e)

/-- A command that ends with `done`. -/
def finish (s : State) : Result := .next s.done

/-- `x[RES0] <- v` and nothing else; RES1 is unchanged (10_state.md R22). -/
def State.setRes0 (s : State) (v : Word) : State := { s with res0 := v }

/-- The block output: `x[RES0] <- right ; x[RES1] <- left` (45_feistel.md R173). -/
def State.setBlock (s : State) (left right : Word) : State := { s with res0 := right, res1 := left }

/-- SBOX[t][i]. Where the store holds no value the read gives a free value; no state that a run reaches lets a command
read there (10_state.md R34; log entry 9). -/
def sboxLookup (tables : Option SboxTables) (t i : Nat) : Word :=
  ((tables.bind (fun ts => ts[t]?)).bind (fun row => row[i]?)).getD (Config.sboxNoValue t i)

/-- SBOX[t][i] of a state (20_memory.md R66). -/
def State.sboxRead (s : State) (t i : Nat) : Word := sboxLookup s.sbox t i

/-- Word w of a subkey, w in 0..2 (20_memory.md R66). -/
def subkeyWord (sk : Subkey) (w : Nat) : Word :=
  match w with
  | 0 => sk.w0
  | 1 => sk.w1
  | _ => sk.w2

/-- The subkey with word w replaced, w in 0..2. -/
def setSubkeyWord (sk : Subkey) (w : Nat) (v : Word) : Subkey :=
  match w with
  | 0 => { sk with w0 := v }
  | 1 => { sk with w1 := v }
  | _ => { sk with w2 := v }

/-- The entry of round r, if the store holds one. -/
def ksFind : KeySchedule → Nat → Option Subkey
  | [], _ => none
  | (q, sk) :: rest, r => if q = r then some sk else ksFind rest r

/-- The store with round r holding `sk`; the list stays in its canonical form. -/
def ksInsert : KeySchedule → Nat → Subkey → KeySchedule
  | [], r, sk => [(r, sk)]
  | (q, x) :: rest, r, sk =>
    if r < q then (r, sk) :: (q, x) :: rest
    else if q = r then (r, sk) :: rest
    else (q, x) :: ksInsert rest r sk

/-- The canonical form of the KS store: rounds strictly rising, so that equal stores are equal lists. -/
def ksCanonical : KeySchedule → Bool
  | [] => true
  | [_] => true
  | (q, _) :: (r, sk) :: rest => decide (q < r) && ksCanonical ((r, sk) :: rest)

/-- KS[r][w]. Where the store holds no value the read gives a free value; no state that a run reaches lets a command
read there (10_state.md R35; log entry 10). -/
def State.ksRead (s : State) (r w : Nat) : Word :=
  match ksFind s.ks r with
  | some sk => subkeyWord sk w
  | none => Config.ksNoValue r w

/-- KB[k], k in 0..3 (20_memory.md R66). -/
def kbGet (kb : KeyBuffer) (k : Nat) : Half :=
  match k with
  | 0 => kb.kb0
  | 1 => kb.kb1
  | 2 => kb.kb2
  | _ => kb.kb3

/-- `KB[k] <- v`, k in 0..3 (20_memory.md R66). -/
def kbSet (kb : KeyBuffer) (k : Nat) (v : Half) : KeyBuffer :=
  match k with
  | 0 => { kb with kb0 := v }
  | 1 => { kb with kb1 := v }
  | 2 => { kb with kb2 := v }
  | _ => { kb with kb3 := v }

/-- The platform's reset: every piece of state takes its reset value whatever it was, the parameter MAX_LEVEL and the
inputs still to come apart (70_reset_and_hazards.md R231, R232; log entry 7). -/
def State.hardReset (s : State) (rest : List Input) : State :=
  { State.reset with maxLevel := s.maxLevel, inputs := rest }

end Sys2Proof.Machine
end

