-- ==== Sys2Proof/Machine/Bus.lean ====
section
/-! DEFINITION. The host register window (20_memory.md): its map, the bus errors and what a read returns. -/

namespace Sys2Proof.Machine

/-- The register at an offset of the window (20_memory.md R51); none at an unmapped offset. -/
def regAt (offset : Nat) : Option WindowReg :=
  match offset with
  | 0x00 => some .cmd
  | 0x04 => some .status
  | 0x08 => some .ctxcfg
  | 0x10 => some .op0
  | 0x14 => some .op1
  | 0x18 => some .op2
  | 0x1C => some .op3
  | 0x20 => some .res0
  | 0x24 => some .res1
  | _ => none

/-- The offset of a register (20_memory.md R51). -/
def regOffset : WindowReg → Nat
  | .cmd => 0x00
  | .status => 0x04
  | .ctxcfg => 0x08
  | .op0 => 0x10
  | .op1 => 0x14
  | .op2 => 0x18
  | .op3 => 0x1C
  | .res0 => 0x20
  | .res1 => 0x24

/-- The register an access reaches, or the bus error it is (20_memory.md R52, R53, R54). The order of the three tests
only picks the error's name (log entry 4). -/
def accessReg (offset bytes : Nat) : Except Fault WindowReg :=
  if bytes ≠ 4 then .error .busWidth
  else if offset % 4 ≠ 0 then .error .busMisaligned
  else
    match regAt offset with
    | some r => .ok r
    | none => .error .busUnmapped

/-- What a read of a register returns; a read of CMD is a bus error (20_memory.md R54, R59). -/
def regValue (r : WindowReg) (s : State) : Except Fault Word :=
  match r with
  | .cmd => .error .busWriteOnly
  | .status => .ok (statusWord s.status)
  | .ctxcfg => .ok (ctxcfgWord s.ctxcfg)
  | .op0 => .ok s.op0
  | .op1 => .ok s.op1
  | .op2 => .ok s.op2
  | .op3 => .ok s.op3
  | .res0 => .ok s.res0
  | .res1 => .ok s.res1

/-- A host read: the value of the register, or the bus error. -/
def busRead (offset bytes : Nat) (s : State) : Except Fault Word :=
  match accessReg offset bytes with
  | .error e => .error e
  | .ok r => regValue r s

/-- The state once the access at the head of the inputs is taken: the host's index advances by one (10_state.md R25). -/
def State.advance (s : State) (rest : List Input) : State :=
  { s with inputs := rest, hostPc := s.hostPc + 1 }

/-- The state once a read has returned v to the host (30_encoding.md R78). -/
def State.observe (s : State) (v : Word) : State :=
  { s with observed := s.observed ++ [v] }

/-- The platform's bus address of an offset (00_scope.md R8). -/
def busAddress (offset : Nat) : Nat := Config.iceBase + offset

/-- The offset of a platform bus address, none outside the 64-byte window (20_memory.md R50). -/
def windowOffset (address : Nat) : Option Nat :=
  if Config.iceBase ≤ address ∧ address < Config.iceBase + 64 then some (address - Config.iceBase) else none

end Sys2Proof.Machine
end

