-- ==== Sys2Proof/Machine/Control.lean ====
section
/-! DEFINITION. NOP, the command of no block (46_control.md). -/

namespace Sys2Proof.Machine

/-- NOP: STATUS.ERR <- 0 and nothing else (46_control.md R190). -/
def execNop (s : State) : Result := finish s

end Sys2Proof.Machine
end

