-- ==== Sys2Proof/Machine/Operands.lean ====
section
/-! DEFINITION. The operand assembly of 30_encoding.md R73: which bits of OP0 to OP3 each command reads. A bit not named
here is ignored. -/

namespace Sys2Proof.Machine

/-- a = OP0[7:0], GF.MUL; b = OP0[7:0], GF.EXP7 (30_encoding.md R73). -/
def State.gfByte0 (s : State) : Byte := s.op0.extractLsb' 0 8

/-- b = OP1[7:0], GF.MUL (30_encoding.md R73). -/
def State.gfByte1 (s : State) : Byte := s.op1.extractLsb' 0 8

/-- m = OP2[8:0], GF.MUL and GF.EXP7 (30_encoding.md R73). -/
def State.gfModulus (s : State) : Modulus := s.op2.extractLsb' 0 9

/-- level = sint32(OP0), CTX.CONFIG (30_encoding.md R73; 00_scope.md R10). -/
def State.level (s : State) : Int := s.op0.toInt

/-- r = OP0[31:0] unsigned, KS.READ (30_encoding.md R73). -/
def State.roundIndex (s : State) : Nat := s.op0.toNat

/-- The key bytes of a chunk as four big-endian 16-bit words at reversed index: KB[3] = OP0[31:16], KB[2] = OP0[15:0],
KB[1] = OP1[31:16], KB[0] = OP1[15:0] (20_memory.md R56; 43_keysched.md R132). -/
def State.loadKB (s : State) : KeyBuffer :=
  { kb0 := s.op1.extractLsb' 0 16, kb1 := s.op1.extractLsb' 16 16,
    kb2 := s.op0.extractLsb' 0 16, kb3 := s.op0.extractLsb' 16 16 }

/-- sk0 = OP1[19:0], ROUND.F (30_encoding.md R73). -/
def State.roundKey0 (s : State) : Key20 := s.op1.extractLsb' 0 20

/-- sk1 = OP2[19:0], ROUND.F (30_encoding.md R73). -/
def State.roundKey1 (s : State) : Key20 := s.op2.extractLsb' 0 20

/-- sk2 = OP3[19:0], ROUND.F (30_encoding.md R73). -/
def State.roundKey2 (s : State) : Key20 := s.op3.extractLsb' 0 20

/-- left = OP0, the block's bytes 0 to 3 (45_feistel.md R170). -/
def State.blockLeft (s : State) : Word := s.op0

/-- right = OP1, the block's bytes 4 to 7 (45_feistel.md R170). -/
def State.blockRight (s : State) : Word := s.op1

end Sys2Proof.Machine
end

