-- ==== Sys2Proof/Machine/RoundFunction.lean ====
section
/-! DEFINITION. The round function and the command ROUND.F (44_round.md). -/

namespace Sys2Proof.Machine

/-- tl: p[1:0], p[31:24], p[25:16], the first uppermost (44_round.md R160). -/
def expandLeft (p : Word) : Key20 := p.extractLsb' 0 2 ++ (p.extractLsb' 24 8 ++ p.extractLsb' 16 10)

/-- tr: p[17:8], p[9:0], the first uppermost (44_round.md R160). -/
def expandRight (p : Word) : Key20 := p.extractLsb' 8 10 ++ p.extractLsb' 0 10

/-- s: the bits of tl and tr that swap (44_round.md R161). -/
def saltSwap (tl tr sk2 : Key20) : Key20 := sk2 &&& (tl ^^^ tr)

/-- al (44_round.md R161). -/
def mixLeft (tl tr sk0 sk2 : Key20) : Key20 := (saltSwap tl tr sk2 ^^^ tl) ^^^ sk0

/-- ar (44_round.md R161). -/
def mixRight (tl tr sk1 sk2 : Key20) : Key20 := (saltSwap tl tr sk2 ^^^ tr) ^^^ sk1

/-- The four lookups and their OR (44_round.md R162). -/
def combineLookups (tables : Option SboxTables) (al ar : Key20) : Word :=
  sboxLookup tables 0 (al.extractLsb' 10 10).toNat ||| sboxLookup tables 1 (al.extractLsb' 0 10).toNat |||
    sboxLookup tables 2 (ar.extractLsb' 10 10).toNat ||| sboxLookup tables 3 (ar.extractLsb' 0 10).toNat

/-- roundF(p, sk0, sk1, sk2) over the tables of the store (44_round.md R162). -/
def roundFunction (tables : Option SboxTables) (p : Word) (sk0 sk1 sk2 : Key20) : Word :=
  combineLookups tables (mixLeft (expandLeft p) (expandRight p) sk0 sk2)
    (mixRight (expandLeft p) (expandRight p) sk1 sk2)

/-- ROUND.F (44_round.md R163). -/
def execRoundF (s : State) : Result :=
  if s.status.sboxValid = false then failWith .noTables s
  else finish (s.setRes0 (roundFunction s.sbox s.op0 s.roundKey0 s.roundKey1 s.roundKey2))

end Sys2Proof.Machine
end

