-- ==== Sys2Proof/Machine/Feistel.lean ====
section
/-! DEFINITION. The Feistel engine: ENCRYPT and DECRYPT (45_feistel.md). -/

namespace Sys2Proof.Machine

/-- The block halves while a command runs (10_state.md R37). -/
structure Halves where
  left : Word
  right : Word
  deriving DecidableEq, Repr

/-- roundF with the schedule entry of round r (45_feistel.md R171). The KS words are below 2^20 (43_keysched.md R136),
so taking 20 bits of each loses nothing. -/
def scheduledRound (s : State) (r : Nat) (p : Word) : Word :=
  roundFunction s.sbox p ((s.ksRead r 0).setWidth 20) ((s.ksRead r 1).setWidth 20) ((s.ksRead r 2).setWidth 20)

/-- Two rounds: round i updates left from right, then round j updates right from the new left (45_feistel.md R171). -/
def feistelPass (f : Nat → Word → Word) (i j : Nat) (h : Halves) : Halves :=
  let left := h.left ^^^ f i h.right
  ⟨left, h.right ^^^ f j left⟩

/-- encryptRounds: i = 0, 2, 4, ..., ROUNDS - 2 (45_feistel.md R171). -/
def encryptRounds (f : Nat → Word → Word) (rounds : Nat) (h : Halves) : Halves :=
  (List.range (rounds / 2)).foldl (fun acc p => feistelPass f (2 * p) (2 * p + 1) acc) h

/-- decryptRounds: i = ROUNDS - 1, ROUNDS - 3, ..., 1 (45_feistel.md R172). -/
def decryptRounds (f : Nat → Word → Word) (rounds : Nat) (h : Halves) : Halves :=
  (List.range (rounds / 2)).foldl (fun acc p => feistelPass f (rounds - 1 - 2 * p) (rounds - 1 - 2 * p - 1) acc) h

/-- The checks of ENCRYPT and DECRYPT, in the order of 60_exceptions.md R205, then the block's output with the halves
swapped (45_feistel.md R173). -/
def blockCommand (s : State) (out : Halves) : Result :=
  if s.status.cfgValid = false then failWith .noContext s
  else if s.status.ksValid = false then failWith .noKey s
  else if s.status.sboxValid = false then failWith .noTables s
  else finish (s.setBlock out.left out.right)

/-- ENCRYPT (45_feistel.md R174). -/
def execEncrypt (s : State) : Result :=
  blockCommand s (encryptRounds (scheduledRound s) s.ctxcfg.rounds.toNat ⟨s.blockLeft, s.blockRight⟩)

/-- DECRYPT (45_feistel.md R175). -/
def execDecrypt (s : State) : Result :=
  blockCommand s (decryptRounds (scheduledRound s) s.ctxcfg.rounds.toNat ⟨s.blockLeft, s.blockRight⟩)

end Sys2Proof.Machine
end

