-- ==== Sys2Proof/Machine/GfArith.lean ====
section
/-! DEFINITION. Galois-field arithmetic: gfMultiply, gfExp7 and the commands GF.MUL and GF.EXP7 (40_gf_arith.md). -/

namespace Sys2Proof.Machine

/-- `aa` after one pass: shifted left, then reduced by m when it reaches 256 (40_gf_arith.md R90, steps 2 and 4). -/
def gfShiftReduce (aa m : Modulus) : Modulus :=
  if 256 ≤ (aa <<< 1).toNat then (aa <<< 1) ^^^ m else aa <<< 1

/-- `res` after one pass: accumulates aa when bb[0] = 1, before the shift (40_gf_arith.md R90, step 1). -/
def gfAccumulate (res : Byte) (aa : Modulus) (bb : Byte) : Byte :=
  if bb.getLsbD 0 then res ^^^ aa.setWidth 8 else res

/-- The loop of 40_gf_arith.md R90, at most `fuel` passes. Eight are enough: bb is empty after them (R94 law 2). -/
def gfMultiplyLoop (m : Modulus) : Nat → Byte → Modulus → Byte → Byte
  | 0, res, _, _ => res
  | fuel + 1, res, aa, bb =>
    if bb = 0 then res else gfMultiplyLoop m fuel (gfAccumulate res aa bb) (gfShiftReduce aa m) (bb >>> 1)

/-- gfMultiply(a, b, m) (40_gf_arith.md R90). -/
def gfMultiply (a b : Byte) (m : Modulus) : Byte := gfMultiplyLoop m 8 0 (a.setWidth 9) b

/-- gfExp7(b, m): four products (40_gf_arith.md R91; 90_conflicts.md C12). -/
def gfExp7 (b : Byte) (m : Modulus) : Byte :=
  if b = 0 then 0
  else
    let x2 := gfMultiply b b m
    let x3 := gfMultiply b x2 m
    let x6 := gfMultiply x3 x3 m
    gfMultiply b x6 m

/-- GF.MUL (40_gf_arith.md R92). -/
def execGfMul (s : State) : Result :=
  if s.gfModulus.getLsbD 8 = false then failWith .modulus s
  else finish (s.setRes0 ((gfMultiply s.gfByte0 s.gfByte1 s.gfModulus).setWidth 32))

/-- GF.EXP7 (40_gf_arith.md R93). -/
def execGfExp7 (s : State) : Result :=
  if s.gfModulus.getLsbD 8 = false then failWith .modulus s
  else finish (s.setRes0 ((gfExp7 s.gfByte0 s.gfModulus).setWidth 32))

end Sys2Proof.Machine
end

