-- ==== Sys2Proof/Machine/Tables.lean ====
section
/-! DEFINITION. The constant tables (10_state.md R38). Their values are the spec's, which took them from general
knowledge of the published ICE design (93_implementation_defined.md G1 to G4; log entry 13). -/

namespace Sys2Proof.Machine

/-- Entry k of a constant table; 0 outside it, where no rule reads. -/
def tableEntry {n : Nat} (table : List (BitVec n)) (k : Nat) : BitVec n := table[k]?.getD 0

/-- PBOX, the scatter table: source bit i goes to the one set bit of entry i (41_scatter.md R102). -/
def pboxTable : List Word :=
  [ 0x00000001, 0x00000080, 0x00000400, 0x00002000, 0x00080000, 0x00200000, 0x01000000, 0x40000000,
    0x00000008, 0x00000020, 0x00000100, 0x00004000, 0x00010000, 0x00800000, 0x04000000, 0x20000000,
    0x00000004, 0x00000010, 0x00000200, 0x00008000, 0x00020000, 0x00400000, 0x08000000, 0x10000000,
    0x00000002, 0x00000040, 0x00000800, 0x00001000, 0x00040000, 0x00100000, 0x02000000, 0x80000000 ]

/-- PBOX[i] (41_scatter.md R102). -/
def pbox (i : Nat) : Word := tableEntry pboxTable i

/-- SXOR, the XOR constant of each table and row, rows of one table together (42_sbox.md R110). -/
def sxorTable : List Byte :=
  [ 0x83, 0x85, 0x9B, 0xCD,
    0xCC, 0xA7, 0xAD, 0x41,
    0x4B, 0x2E, 0xD4, 0x33,
    0xEA, 0xCB, 0x2E, 0x04 ]

/-- SXOR[t][row] (42_sbox.md R110). -/
def sxor (t row : Nat) : Byte := tableEntry sxorTable (4 * t + row)

/-- SMOD, the modulus of each table and row, rows of one table together (42_sbox.md R111). -/
def smodTable : List Modulus :=
  [ 333, 313, 505, 369,
    379, 375, 319, 391,
    361, 445, 451, 397,
    397, 425, 395, 505 ]

/-- SMOD[t][row] (42_sbox.md R111). -/
def smod (t row : Nat) : Modulus := tableEntry smodTable (4 * t + row)

/-- ROT, the key rotation table (43_keysched.md R130). -/
def rotTable : List Nat := [0, 1, 2, 3, 2, 1, 3, 0, 1, 3, 2, 0, 3, 1, 0, 2]

/-- ROT[k] (43_keysched.md R130). -/
def rot (k : Nat) : Nat := rotTable[k]?.getD 0

end Sys2Proof.Machine
end

