-- ==== Sys2Proof/Machine/KeySched.lean ====
section
/-! DEFINITION. The context and the key scheduler: CTX.CONFIG, KEY.CHUNK and KS.READ (43_keysched.md). -/

namespace Sys2Proof.Machine

/-- A word of the key buffer after one bit is taken: shifted right, the bit's complement enters at bit 15
(43_keysched.md R131). -/
def kbShift (v : Half) : Half := (v >>> 1) ||| (BitVec.ofBool (!v.getLsbD 0)).setWidth 16 <<< 15

/-- A subkey word with one bit appended as its new lowest bit, 32 bits kept (43_keysched.md R131). -/
def appendBit (v : Word) (bit : Bool) : Word := (v <<< 1) ||| (BitVec.ofBool bit).setWidth 32

/-- The body of the k loop: take the lowest bit of KB[(kr + k) & 3] into subkey word j % 3 (43_keysched.md R131). -/
def takeBit (kr j : Nat) (acc : Subkey × KeyBuffer) (k : Nat) : Subkey × KeyBuffer :=
  let idx := (kr + k) % 4
  let src := kbGet acc.2 idx
  (setSubkeyWord acc.1 (j % 3) (appendBit (subkeyWord acc.1 (j % 3)) (src.getLsbD 0)),
   kbSet acc.2 idx (kbShift src))

/-- The body of the j loop: k = 0, 1, 2, 3 (43_keysched.md R131). -/
def takeFourBits (kr : Nat) (acc : Subkey × KeyBuffer) (j : Nat) : Subkey × KeyBuffer :=
  (List.range 4).foldl (takeBit kr j) acc

/-- One round entry from rotation base kr: the three words start at 0 and j runs over 0..14 (43_keysched.md R131). -/
def roundSubkey (kr : Nat) (kb : KeyBuffer) : Subkey × KeyBuffer :=
  (List.range 15).foldl (takeFourBits kr) (⟨0, 0, 0⟩, kb)

/-- The body of the i loop: KS[n + i] from rot[i], i the local round index (43_keysched.md R131; 90_conflicts.md C13).
`base` is where the 8-entry slice of ROT begins. -/
def buildRound (n base : Nat) (acc : KeySchedule × KeyBuffer) (i : Nat) : KeySchedule × KeyBuffer :=
  let r := roundSubkey (rot (base + i)) acc.2
  (ksInsert acc.1 (n + i) r.1, r.2)

/-- buildRoundKeys(n, ROT[base .. base+7]) (43_keysched.md R131). -/
def buildRoundKeys (n base : Nat) (acc : KeySchedule × KeyBuffer) : KeySchedule × KeyBuffer :=
  (List.range 8).foldl (buildRound n base) acc

/-- What KEY.CHUNK c writes into KS and KB: one call in degenerate mode, two in general mode, the second from the buffer
the first left (43_keysched.md R134, R137). -/
def scheduleChunk (degen : Bool) (rounds c : Nat) (acc : KeySchedule × KeyBuffer) : KeySchedule × KeyBuffer :=
  if degen then buildRoundKeys 0 0 acc
  else buildRoundKeys (rounds - 8 - 8 * c) 8 (buildRoundKeys (8 * c) 0 acc)

/-- A successful CTX.CONFIG: CTXCFG and the flags written, the old schedule discarded (43_keysched.md R133). -/
def State.configure (s : State) (size rounds : Nat) (degen : Bool) : State :=
  { s with ctxcfg := ⟨BitVec.ofNat 16 size, BitVec.ofNat 16 rounds⟩,
           status := flagsAfterConfig s.status degen, ks := [] }

/-- CTX.CONFIG (43_keysched.md R133). A level below 1 gives degenerate mode and one above MAX_LEVEL is refused; the two
exclude each other, so their order does not show (DEDUCED; log entry 11). -/
def execCtxConfig (s : State) : Result :=
  if s.level < 1 then finish (s.configure 1 8 true)
  else if s.level > (s.maxLevel : Int) then failWith .level s
  else finish (s.configure s.level.toNat (16 * s.level.toNat) false)

/-- Is chunk c out of order or beyond the key (43_keysched.md R134)? -/
def State.chunkOutOfOrder (s : State) (c : Nat) : Bool :=
  decide (s.ctxcfg.size.toNat ≤ c) || (decide (c ≠ 0) && decide (c ≠ s.status.nextChunk.toNat))

/-- A successful KEY.CHUNK c: KB loaded and shifted, the chunk's rounds written, the flags (43_keysched.md R134). -/
def State.loadChunk (s : State) (c : Nat) : State :=
  let r := scheduleChunk s.status.degen s.ctxcfg.rounds.toNat c (s.ks, s.loadKB)
  { s with ks := r.1, kb := r.2, status := flagsAfterChunk s.status s.ctxcfg.size.toNat c }

/-- KEY.CHUNK (43_keysched.md R134). -/
def execKeyChunk (c : Nat) (s : State) : Result :=
  if s.status.cfgValid = false then failWith .noContext s
  else if s.chunkOutOfOrder c = true then failWith .keySeq s
  else finish (s.loadChunk c)

/-- KS.READ (43_keysched.md R135). w = 3 is the one well-formed select above 2. -/
def execKsRead (w : Nat) (s : State) : Result :=
  if s.status.cfgValid = false then failWith .noContext s
  else if s.status.ksValid = false then failWith .noKey s
  else if s.ctxcfg.rounds.toNat ≤ s.roundIndex ∨ 3 ≤ w then failWith .range s
  else finish (s.setRes0 (s.ksRead s.roundIndex w))

end Sys2Proof.Machine
end

