-- ==== Sys2Proof/Machine/Scatter.lean ====
section
/-! DEFINITION. The bit-scatter permutation and the command SCATTER (41_scatter.md). -/

namespace Sys2Proof.Machine

/-- One position of the scatter: OR PBOX[i] in when x[i] = 1 (41_scatter.md R100). -/
def scatterBit (x res : Word) (i : Nat) : Word := if x.getLsbD i then res ||| pbox i else res

/-- scatter32(x) in the fixed form of 41_scatter.md R100: the OR of PBOX[i] over the set bits i of x. -/
def scatter32 (x : Word) : Word := (List.range 32).foldl (scatterBit x) 0

/-- SCATTER (41_scatter.md R101). -/
def execScatter (s : State) : Result := finish (s.setRes0 (scatter32 s.op0))

end Sys2Proof.Machine
end

