-- ==== Sys2Proof/Machine/SboxBuilder.lean ====
section
/-! DEFINITION. The substitution table builder and the commands SBOX.BUILD and SBOX.READ (42_sbox.md). -/

namespace Sys2Proof.Machine

/-- column = i[8:1] (42_sbox.md R112). -/
def sboxColumn (i : BitVec 10) : Byte := i.extractLsb' 1 8

/-- row = (i[9], i[0]), i[9] the upper bit (42_sbox.md R112). -/
def sboxRow (i : BitVec 10) : BitVec 2 := i.extractLsb' 9 1 ++ i.extractLsb' 0 1

/-- The byte before the scatter: gfExp7(col ^ SXOR[t][row], SMOD[t][row]) (42_sbox.md R113). -/
def sboxByte (t : Nat) (i : BitVec 10) : Byte :=
  gfExp7 (sboxColumn i ^^^ sxor t (sboxRow i).toNat) (smod t (sboxRow i).toNat)

/-- sboxEntry(t, i): the byte in its place (3 - t), then scattered (42_sbox.md R113). -/
def sboxEntry (t i : Nat) : Word :=
  scatter32 ((sboxByte t (BitVec.ofNat 10 i)).setWidth 32 <<< (8 * (3 - t)))

/-- What SBOX.BUILD writes: every entry of every table (42_sbox.md R114). -/
def builtTables : SboxTables :=
  (List.range 4).map (fun t => (List.range 1024).map (sboxEntry t))

/-- SBOX.BUILD (42_sbox.md R114). -/
def execSboxBuild (s : State) : Result :=
  finish { s with sbox := some builtTables, status := flagsAfterBuild s.status }

/-- SBOX.READ (42_sbox.md R115). -/
def execSboxRead (t i : Nat) (s : State) : Result :=
  if s.status.sboxValid = false then failWith .noTables s
  else finish (s.setRes0 (s.sboxRead t i))

end Sys2Proof.Machine
end

