-- ==== Sys2Proof/Machine/Dispatch.lean ====
section
/-! DEFINITION. Which meaning each command has: one arm a row of the opcode map (30_encoding.md R75). -/

namespace Sys2Proof.Machine

def exec (i : Instr) (s : State) : Host.Outcome State Fault Refusal :=
  match i with
  | .nop => Sys2Proof.Machine.execNop s
  | .gfMul => Sys2Proof.Machine.execGfMul s
  | .gfExp7 => Sys2Proof.Machine.execGfExp7 s
  | .scatter => Sys2Proof.Machine.execScatter s
  | .sboxBuild => Sys2Proof.Machine.execSboxBuild s
  | .sboxRead t k => Sys2Proof.Machine.execSboxRead t k s
  | .ctxConfig => Sys2Proof.Machine.execCtxConfig s
  | .keyChunk c => Sys2Proof.Machine.execKeyChunk c s
  | .ksRead w => Sys2Proof.Machine.execKsRead w s
  | .roundF => Sys2Proof.Machine.execRoundF s
  | .encrypt => Sys2Proof.Machine.execEncrypt s
  | .decrypt => Sys2Proof.Machine.execDecrypt s

end Sys2Proof.Machine
end

