-- ==== Sys2Proof/Machine/HostAccess.lean ====
section
/-! DEFINITION. What one host access does, whole and at once (20_memory.md R57, R58, R59). -/

namespace Sys2Proof.Machine

/-- A write of w to CMD: decode, then run the command; an illegal word raises E_ILLEGAL and has no other effect
(30_encoding.md R76, R77). -/
def runCommand (w : Word) (s : State) : Result :=
  match decode w with
  | .ok i => exec i s
  | .error _ => failWith .illegal s

/-- A host write of v that reaches register r: CMD runs a command, OPn takes all 32 bits, the others are read-only
(10_state.md R21, R23; 20_memory.md R54). -/
def regWrite (r : WindowReg) (v : Word) (s : State) : Result :=
  match r with
  | .cmd => runCommand v s
  | .op0 => .next { s with op0 := v }
  | .op1 => .next { s with op1 := v }
  | .op2 => .next { s with op2 := v }
  | .op3 => .next { s with op3 := v }
  | .status | .ctxcfg | .res0 | .res1 => .fault .busReadOnly

/-- A host read, taken off the inputs: the value goes to the host and nothing else changes (20_memory.md R59). -/
def hostRead (offset bytes : Nat) (rest : List Input) (s : State) : Result :=
  match busRead offset bytes s with
  | .ok v => .next ((s.advance rest).observe v)
  | .error e => .fault e

/-- A host write, taken off the inputs. -/
def hostWrite (offset bytes : Nat) (v : Word) (rest : List Input) (s : State) : Result :=
  match accessReg offset bytes with
  | .ok r => regWrite r v (s.advance rest)
  | .error e => .fault e

end Sys2Proof.Machine
end

