-- ==== Sys2Proof/Machine/Step.lean ====
section
/-! DEFINITION. One step of the machine: the next input of the host or the platform, done whole (20_memory.md R57, R58;
46_control.md R192). -/

namespace Sys2Proof.Machine

/-- One step. With no input the machine waits (70_reset_and_hazards.md R232; log entry 5); a bus error is a fault
(20_memory.md R54; log entry 4). -/
def step (s : State) : Host.Outcome State Fault Refusal :=
  match s.inputs with
  | [] => .next s
  | .reset :: rest => .next (s.hardReset rest)
  | .read offset bytes :: rest => hostRead offset bytes rest s
  | .write offset bytes v :: rest => hostWrite offset bytes v rest s

/-- s with a write of the given word to CMD as its next input: what the very next step runs (10_state.md R23; log
entry 6). -/
def State.withFetchWord (s : State) (nbits w : Nat) : State :=
  { s with inputs := .write 0 4 (BitVec.ofNat 32 (w % 2 ^ nbits)) :: s.inputs }

end Sys2Proof.Machine
end

