-- ==== Sys2Proof/Machine/Assembler.lean ====
section
/-! DEFINITION. ICE-CORE's assembly language: host programs as sequences of bus accesses (30_encoding.md R78) and the
pseudo-instructions (R79). An argument out of its range is refused, not truncated (R78). The text conventions that the
spec leaves open are in log entries 19 and 22. -/

namespace Sys2Proof.Machine

/-- A line that is one host bus access (30_encoding.md R78). -/
inductive AsmLine where
  /-- `wr OPn, v`. -/
  | wr (n v : Nat)
  /-- `rd NAME`. -/
  | rd (name : WindowReg)
  /-- A command of its mnemonic, with its arguments. -/
  | command (i : Instr)
  deriving DecidableEq, Repr

/-- A pseudo-instruction (30_encoding.md R79). -/
inductive PseudoLine where
  | gfmul (a b m : Nat)
  | gfexp7 (b m : Nat)
  | config (level : Int)
  | setkey (bytes : List Nat)
  | block (bytes : List Nat)
  | enc8 (bytes : List Nat)
  | dec8 (bytes : List Nat)
  | roundf (p s0 s1 s2 : Nat)
  deriving DecidableEq, Repr

/-- A line of a host program. -/
inductive SourceLine where
  | access (line : AsmLine)
  | pseudo (line : PseudoLine)
  deriving DecidableEq, Repr

/-- The bus access of a line; none when the assembler refuses it (30_encoding.md R78). -/
def assembleLine : AsmLine → Option Input
  | .wr n v => if n < 4 ∧ v < 2 ^ 32 then some (.write (0x10 + 4 * n) 4 (BitVec.ofNat 32 v)) else none
  | .rd name => if name = .cmd then none else some (.read (regOffset name) 4)
  | .command i => if i.wellFormed then some (.write 0x00 4 (encode i)) else none

/-- The big-endian word of four bytes, the first in bits 31:24 (30_encoding.md R79). -/
def wordOfBytes (b0 b1 b2 b3 : Nat) : Nat := ((b0 * 256 + b1) * 256 + b2) * 256 + b3

/-- The lines `wr OP0`, `wr OP1` that hold eight bytes (30_encoding.md R79); none unless there are exactly eight, each
below 256. -/
def blockLines (bytes : List Nat) : Option (List AsmLine) :=
  match bytes with
  | [b0, b1, b2, b3, b4, b5, b6, b7] =>
    if bytes.all (fun b => b < 256) then
      some [.wr 0 (wordOfBytes b0 b1 b2 b3), .wr 1 (wordOfBytes b4 b5 b6 b7)]
    else none
  | _ => none

/-- The chunks of `setkey` from chunk c on: eight bytes a chunk, then `key.chunk c` (30_encoding.md R79). -/
def setkeyLines (c : Nat) (bytes : List Nat) : Option (List AsmLine) :=
  match bytes with
  | [] => some []
  | b0 :: b1 :: b2 :: b3 :: b4 :: b5 :: b6 :: b7 :: rest =>
    match blockLines [b0, b1, b2, b3, b4, b5, b6, b7], setkeyLines (c + 1) rest with
    | some now, some later => some (now ++ [.command (.keyChunk c)] ++ later)
    | _, _ => none
  | _ => none

/-- A level as 32-bit two's complement; none outside the range (30_encoding.md R79). -/
def levelWord (level : Int) : Option Nat :=
  if -(2 ^ 31) ≤ level ∧ level < 2 ^ 31 then some (BitVec.ofInt 32 level).toNat else none

/-- The expansion of a pseudo-instruction (30_encoding.md R79). -/
def expandPseudo : PseudoLine → Option (List AsmLine)
  | .gfmul a b m => some [.wr 0 a, .wr 1 b, .wr 2 m, .command .gfMul]
  | .gfexp7 b m => some [.wr 0 b, .wr 2 m, .command .gfExp7]
  | .config level => (levelWord level).map (fun w => [.wr 0 w, .command .ctxConfig])
  | .setkey bytes => if bytes = [] then none else setkeyLines 0 bytes
  | .block bytes => blockLines bytes
  | .enc8 bytes => (blockLines bytes).map (fun l => l ++ [.command .encrypt])
  | .dec8 bytes => (blockLines bytes).map (fun l => l ++ [.command .decrypt])
  | .roundf p s0 s1 s2 => some [.wr 0 p, .wr 1 s0, .wr 2 s1, .wr 3 s2, .command .roundF]

/-- The lines a source line stands for. -/
def expandLine : SourceLine → Option (List AsmLine)
  | .access line => some [line]
  | .pseudo line => expandPseudo line

/-- The accesses of several lines; none as soon as one is refused. -/
def assembleLines : List AsmLine → Option (List Input)
  | [] => some []
  | line :: rest =>
    match assembleLine line, assembleLines rest with
    | some a, some as => some (a :: as)
    | _, _ => none

/-- The accesses of a host program; none as soon as a line is refused. -/
def assembleProgram : List SourceLine → Option (List Input)
  | [] => some []
  | line :: rest =>
    match (expandLine line).bind assembleLines, assembleProgram rest with
    | some now, some later => some (now ++ later)
    | _, _ => none

/-! The text of a line (30_encoding.md R78): characters to tokens, tokens to a line. -/

/-- The line without its comment, which starts with `;` (30_encoding.md R78). -/
def stripComment (line : List Char) : List Char := line.takeWhile (fun ch => ch != ';')

/-- A space, a tab or a comma parts two tokens. -/
def isSeparator (ch : Char) : Bool := ch == ' ' || ch == '\t' || ch == ','

/-- The tokens of a line; `cur` is the token being read, last character first. -/
def splitTokens : List Char → List Char → List (List Char)
  | [], cur => if cur = [] then [] else [cur.reverse]
  | ch :: rest, cur =>
    if isSeparator ch then
      if cur = [] then splitTokens rest [] else cur.reverse :: splitTokens rest []
    else splitTokens rest (ch :: cur)

/-- The value of a digit in a base up to 16. -/
def digitValue (base : Nat) (ch : Char) : Option Nat :=
  let k := ch.toNat
  let v := if 48 ≤ k ∧ k ≤ 57 then some (k - 48)
    else if 65 ≤ k ∧ k ≤ 70 then some (k - 55)
    else if 97 ≤ k ∧ k ≤ 102 then some (k - 87)
    else none
  v.bind (fun d => if d < base then some d else none)

/-- The number that digits of a base write, after the value so far. -/
def digitsFrom (base : Nat) : Nat → List Char → Option Nat
  | acc, [] => some acc
  | acc, ch :: rest => (digitValue base ch).bind (fun d => digitsFrom base (acc * base + d) rest)

/-- A number: decimal or 0x hexadecimal (30_encoding.md R78). -/
def parseNumber : List Char → Option Nat
  | [] => none
  | ['0', 'x'] => none
  | '0' :: 'x' :: ds => digitsFrom 16 0 ds
  | ds => digitsFrom 10 0 ds

/-- A number that may be negative, the level of `config` (95_test_vectors.md P5 line 2). -/
def parseInteger : List Char → Option Int
  | '-' :: ds => (parseNumber ds).map (fun n => -(n : Int))
  | ds => (parseNumber ds).map (fun n => (n : Int))

/-- A byte of `setkey`, `block`, `enc8` or `dec8`. A token of exactly two characters is two hexadecimal digits, as
95_test_vectors.md P3 writes every byte, so `10` is 0x10; any other token is a number by 30_encoding.md R78, decimal or 0x,
so `100` is decimal 100 and `5` is 5. DESIGN CHOICE: R78 says decimal and P3 writes hexadecimal without 0x, and the spec does
not say which holds for a token that is not two characters (log entry 22). -/
def parseByte : List Char → Option Nat
  | [a, b] => digitsFrom 16 0 [a, b]
  | ds => parseNumber ds

/-- The register a name stands for (30_encoding.md R78). -/
def parseRegister : List Char → Option WindowReg
  | ['S', 'T', 'A', 'T', 'U', 'S'] => some .status
  | ['C', 'T', 'X', 'C', 'F', 'G'] => some .ctxcfg
  | ['O', 'P', '0'] => some .op0
  | ['O', 'P', '1'] => some .op1
  | ['O', 'P', '2'] => some .op2
  | ['O', 'P', '3'] => some .op3
  | ['R', 'E', 'S', '0'] => some .res0
  | ['R', 'E', 'S', '1'] => some .res1
  | _ => none

/-- n of an operand register OPn. -/
def parseOperand (name : List Char) : Option Nat :=
  match parseRegister name with
  | some .op0 => some 0
  | some .op1 => some 1
  | some .op2 => some 2
  | some .op3 => some 3
  | _ => none

/-- Every token read by `f`; none as soon as one is refused. -/
def parseAll (f : List Char → Option Nat) : List (List Char) → Option (List Nat)
  | [] => some []
  | tok :: rest =>
    match f tok, parseAll f rest with
    | some n, some ns => some (n :: ns)
    | _, _ => none

/-- A command of R78 from its mnemonic in lower case and the numbers after it. -/
def commandLine (name : String) (args : List Nat) : Option SourceLine :=
  if name = "nop" ∧ args = [] then some (.access (.command .nop))
  else if name = "gf.mul" ∧ args = [] then some (.access (.command .gfMul))
  else if name = "gf.exp7" ∧ args = [] then some (.access (.command .gfExp7))
  else if name = "scatter" ∧ args = [] then some (.access (.command .scatter))
  else if name = "sbox.build" ∧ args = [] then some (.access (.command .sboxBuild))
  else if name = "ctx.config" ∧ args = [] then some (.access (.command .ctxConfig))
  else if name = "round.f" ∧ args = [] then some (.access (.command .roundF))
  else if name = "encrypt" ∧ args = [] then some (.access (.command .encrypt))
  else if name = "decrypt" ∧ args = [] then some (.access (.command .decrypt))
  else
    match args with
    | [x] =>
      if name = "key.chunk" then some (.access (.command (.keyChunk x)))
      else if name = "ks.read" then some (.access (.command (.ksRead x)))
      else none
    | [x, y] =>
      if name = "sbox.read" then some (.access (.command (.sboxRead x y)))
      else if name = "gfexp7" then some (.pseudo (.gfexp7 x y))
      else none
    | [x, y, z] => if name = "gfmul" then some (.pseudo (.gfmul x y z)) else none
    | [x, y, z, u] => if name = "roundf" then some (.pseudo (.roundf x y z u)) else none
    | _ => none

/-- A pseudo-instruction of R79 whose arguments are bytes. -/
def bytesLine (name : String) (bytes : List Nat) : Option SourceLine :=
  if name = "setkey" then some (.pseudo (.setkey bytes))
  else if name = "block" then some (.pseudo (.block bytes))
  else if name = "enc8" then some (.pseudo (.enc8 bytes))
  else if name = "dec8" then some (.pseudo (.dec8 bytes))
  else none

/-- The line of a mnemonic, case-insensitive (30_encoding.md R78), and the tokens after it. -/
def parseTokens (mnemonicToken : List Char) (args : List (List Char)) : Option SourceLine :=
  let name := String.ofList (mnemonicToken.map Char.toLower)
  if name = "wr" then
    match args with
    | [reg, v] =>
      match parseOperand reg, parseNumber v with
      | some n, some x => some (.access (.wr n x))
      | _, _ => none
    | _ => none
  else if name = "rd" then
    match args with
    | [reg] => (parseRegister reg).map (fun r => .access (.rd r))
    | _ => none
  else if name = "config" then
    match args with
    | [v] => (parseInteger v).map (fun level => .pseudo (.config level))
    | _ => none
  else if name = "setkey" ∨ name = "block" ∨ name = "enc8" ∨ name = "dec8" then
    (parseAll parseByte args).bind (bytesLine name)
  else (parseAll parseNumber args).bind (commandLine name)

/-- The source lines a text line holds: none refused, at most one line, nothing for a blank line or a comment. -/
def parseLine (line : List Char) : Option (List SourceLine) :=
  match splitTokens (stripComment line) [] with
  | [] => some []
  | tok :: args => (parseTokens tok args).map (fun l => [l])

/-- The accesses of a host program given as text lines; none as soon as a line is refused. -/
def assembleText : List (List Char) → Option (List Input)
  | [] => some []
  | line :: rest =>
    match (parseLine line).bind assembleProgram, assembleText rest with
    | some now, some later => some (now ++ later)
    | _, _ => none

end Sys2Proof.Machine
end

