-- ==== Sys2Proof/Machine/Reference.lean ====
section
/-! DEFINITION. The spec's second descriptions of the computations, for statements to compare the machine with: the loops
as written where the machine uses a closed form, closed forms where the machine uses a loop, and the tables of
properties. The machine uses none of them. -/

namespace Sys2Proof.Machine

/-- The while loop of 41_scatter.md R100, at most `fuel` passes: look at the lowest bit, shift right, advance. -/
def scatterLoop : Nat → Word → Nat → Word → Word
  | 0, _, _, res => res
  | fuel + 1, xx, pos, res =>
    if xx = 0 then res
    else scatterLoop fuel (xx >>> 1) (pos + 1) (if xx.getLsbD 0 then res ||| pbox pos else res)

/-- INV: output bit j of scatter32 comes from source bit INV[j] (41_scatter.md R103). -/
def scatterSource : List Nat :=
  [ 0, 24, 16, 8, 17, 9, 25, 1, 10, 18, 2, 26, 27, 3, 11, 19, 12, 20, 28, 4, 29, 5, 21, 13, 6, 30, 14, 22, 23, 15, 7, 31 ]

/-- How many bits of a word are 1. -/
def setBits (x : Word) : Nat := (List.range 32).countP (fun i => x.getLsbD i)

/-- LANE[t], the output bits of table t (42_sbox.md R116). -/
def lane (t : Nat) : Word := tableEntry [0x82141842, 0x18428214, 0x24814128, 0x41282481] t

/-- The index of column col and row (row1, row0): (row1 << 9) | (column << 1) | row0 (42_sbox.md R112). -/
def indexOf (row col : Nat) : Nat := 512 * (row / 2) + 2 * col + row % 2

/-- The entry formula of 42_sbox.md R113 over numbers: column = (i >> 1) & 0xFF, row = (i & 1) | ((i & 0x200) >> 8)
(R112). -/
def entryByNumbers (t i : Nat) : Word :=
  let col := (i / 2) % 256
  let row := i % 2 + 2 * (i / 512 % 2)
  scatter32 ((gfExp7 (BitVec.ofNat 8 col ^^^ sxor t row) (smod t row)).setWidth 32 <<< (8 * (3 - t)))

/-- The XOR of the 1024 entries that `read` gives (42_sbox.md R117). -/
def tableXor (read : Nat → Word) : Word := (List.range 1024).foldl (fun acc i => acc ^^^ read i) 0

/-- Their sum mod 2^32 (42_sbox.md R117). -/
def tableSum (read : Nat → Word) : Word := (List.range 1024).foldl (fun acc i => acc + read i) 0

/-- The sum over i of (i + 1) x entry i, mod 2^32 (42_sbox.md R117). -/
def tableWeightedSum (read : Nat → Word) : Word :=
  (List.range 1024).foldl (fun acc i => acc + BitVec.ofNat 32 (i + 1) * read i) 0

/-- tl as the document writes it: ((p >> 16) & 0x3FF) | (((p >> 14) | (p << 18)) & 0xFFC00) (44_round.md R160). -/
def quotedLeft (p : Word) : Word := ((p >>> 16) &&& 0x3FF) ||| (((p >>> 14) ||| (p <<< 18)) &&& 0xFFC00)

/-- tr as the document writes it: (p & 0x3FF) | ((p << 2) & 0xFFC00) (44_round.md R160). -/
def quotedRight (p : Word) : Word := (p &&& 0x3FF) ||| ((p <<< 2) &&& 0xFFC00)

/-- fsrBit(word, s): the bit a key-buffer word yields at its s-th shift since it was loaded (43_keysched.md R138). -/
def fsrBit (word : Half) (s : Nat) : Bool := word.getLsbD (s % 16) ^^ decide (s / 16 % 2 = 1)

/-- Bit b of subkey word w of local round i in call q of a chunk, from the buffer kb0 that loadKB made: bits 19 down to
0 come from j = w, w+3, ..., w+12 (outer) and k = 0, 1, 2, 3 (inner); the bits above are 0 (43_keysched.md R138, R136).
`base` is where the call's slice of ROT begins. -/
def scheduleBit (kb0 : KeyBuffer) (base q i w b : Nat) : Bool :=
  decide (b < 20) &&
    fsrBit (kbGet kb0 ((rot (base + i) + (19 - b) % 4) % 4)) (120 * q + 15 * i + (w + 3 * ((19 - b) / 4)))

/-- The word of those bits. -/
def scheduleWord (kb0 : KeyBuffer) (base q i w : Nat) : Word :=
  BitVec.ofBoolListLE ((List.range 32).map (scheduleBit kb0 base q i w))

/-- The three context states of 70_reset_and_hazards.md R234. -/
inductive ContextState where
  | none
  | loading (n : Nat)
  | set
  deriving DecidableEq, Repr

/-- The context state, read from STATUS (70_reset_and_hazards.md R234). -/
def contextState (s : State) : ContextState :=
  if s.status.cfgValid = false then .none
  else if s.status.ksValid = false then .loading s.status.nextChunk.toNat
  else .set

/-- The condition of a command's own operand check, as 60_exceptions.md R200 words it. -/
def operandError (i : Instr) (s : State) : Option ErrCode :=
  match i with
  | .gfMul | .gfExp7 => if s.op2.getLsbD 8 = false then some .modulus else none
  | .ctxConfig => if (s.maxLevel : Int) < s.op0.toInt then some .level else none
  | .keyChunk c =>
    if s.ctxcfg.size.toNat ≤ c ∨ (c ≠ 0 ∧ c ≠ s.status.nextChunk.toNat) then some .keySeq else none
  | .ksRead w => if s.ctxcfg.rounds.toNat ≤ s.op0.toNat ∨ w = 3 then some .range else none
  | .nop | .scatter | .sboxBuild | .sboxRead _ _ | .roundF | .encrypt | .decrypt => none

/-- The commands that need a context (60_exceptions.md R205). -/
def needsContext : Instr → Bool
  | .keyChunk _ | .ksRead _ | .encrypt | .decrypt => true
  | .nop | .gfMul | .gfExp7 | .scatter | .sboxBuild | .sboxRead _ _ | .ctxConfig | .roundF => false

/-- The commands that need a schedule (60_exceptions.md R205). -/
def needsKey : Instr → Bool
  | .ksRead _ | .encrypt | .decrypt => true
  | .nop | .gfMul | .gfExp7 | .scatter | .sboxBuild | .sboxRead _ _ | .ctxConfig | .keyChunk _ | .roundF => false

/-- The commands that need the tables (60_exceptions.md R205). -/
def needsTables : Instr → Bool
  | .sboxRead _ _ | .roundF | .encrypt | .decrypt => true
  | .nop | .gfMul | .gfExp7 | .scatter | .sboxBuild | .ctxConfig | .keyChunk _ | .ksRead _ => false

/-- The first check of a decoded command that fails, in the order of 60_exceptions.md R205. -/
def firstError (i : Instr) (s : State) : Option ErrCode :=
  if needsContext i = true ∧ s.status.cfgValid = false then some .noContext
  else if needsKey i = true ∧ s.status.ksValid = false then some .noKey
  else if needsTables i = true ∧ s.status.sboxValid = false then some .noTables
  else operandError i s

/-- Key loading as a host does it: for each chunk from c on, OP0 and OP1 written and KEY.CHUNK run; none as soon as one
does not answer a next state (43_keysched.md R139). -/
def loadKey : Nat → List (Word × Word) → State → Option State
  | _, [], s => some s
  | c, (hi, lo) :: rest, s =>
    match execKeyChunk c { s with op0 := hi, op1 := lo } with
    | .next t => loadKey (c + 1) rest t
    | .fault _ => none
    | .refused _ => none

/-- The buffer that loadKB makes of a chunk's two words (43_keysched.md R132). -/
def chunkBuffer (hi lo : Word) : KeyBuffer :=
  { kb0 := lo.extractLsb' 0 16, kb1 := lo.extractLsb' 16 16, kb2 := hi.extractLsb' 0 16, kb3 := hi.extractLsb' 16 16 }

end Sys2Proof.Machine
end

