-- ==== Sys2Proof/Safety.lean ====
section
/-! DEFINITION. What every state that a run reaches satisfies, in the terms the statements use. -/

namespace Sys2Proof.Machine

/-- A subkey whose three words have 20 significant bits (43_keysched.md R136). -/
def subkeyIs20 (sk : Subkey) : Prop := sk.w0.toNat < 2 ^ 20 ∧ sk.w1.toNat < 2 ^ 20 ∧ sk.w2.toNat < 2 ^ 20

/-- The rounds KEY.CHUNK c writes: 0..7 in degenerate mode; in general mode the eight from 8c and the eight from
ROUNDS-8-8c (43_keysched.md R134, R139). -/
def chunkRound (degen : Bool) (rounds c r : Nat) : Prop :=
  if degen = true then r < 8
  else (8 * c ≤ r ∧ r < 8 * c + 8) ∨ (rounds - 8 - 8 * c ≤ r ∧ r < rounds - 8 - 8 * c + 8)

/-- The invariant of the machine: what reset makes true and every step keeps. -/
structure StateInv (s : State) : Prop where
  /-- 1 <= MAX_LEVEL <= 4095 (00_scope.md R7). -/
  levelRange : 1 ≤ s.maxLevel ∧ s.maxLevel ≤ 4095
  /-- STICKY is 1 whenever ERR is not 0 (10_state.md R27). -/
  stickyOfError : s.status.err ≠ .success → s.status.sticky = true
  /-- SBOX_VALID is 1 exactly when the tables hold their defined contents (10_state.md R24, R29). -/
  tablesBuilt : s.sbox = if s.status.sboxValid = true then some builtTables else none
  /-- Context state NONE: CTXCFG reads 0, no key, no schedule (10_state.md R28; 70_reset_and_hazards.md R234). -/
  noContext : s.status.cfgValid = false →
    s.ctxcfg = ⟨0, 0⟩ ∧ s.status.ksValid = false ∧ s.status.degen = false ∧ s.status.nextChunk = 0 ∧ s.ks = []
  /-- Degenerate mode: SIZE = 1, ROUNDS = 8 (10_state.md R28). -/
  degenerate : s.status.cfgValid = true → s.status.degen = true →
    s.ctxcfg.size.toNat = 1 ∧ s.ctxcfg.rounds.toNat = 8
  /-- General mode: 1 <= SIZE <= MAX_LEVEL, ROUNDS = 16 x SIZE (10_state.md R28). -/
  general : s.status.cfgValid = true → s.status.degen = false →
    1 ≤ s.ctxcfg.size.toNat ∧ s.ctxcfg.size.toNat ≤ s.maxLevel ∧ s.ctxcfg.rounds.toNat = 16 * s.ctxcfg.size.toNat
  /-- LOADING(n): n <= SIZE - 1 (70_reset_and_hazards.md R234). -/
  loading : s.status.cfgValid = true → s.status.ksValid = false →
    s.status.nextChunk.toNat < s.ctxcfg.size.toNat
  /-- SET: NEXT_CHUNK = SIZE (70_reset_and_hazards.md R234). -/
  keySet : s.status.ksValid = true → s.status.nextChunk = s.ctxcfg.size
  /-- The KS store is in its canonical form. -/
  ksForm : ksCanonical s.ks = true
  /-- Every entry is of a round below ROUNDS and 20 bits wide (10_state.md R35; 43_keysched.md R136). -/
  ksEntries : ∀ r sk, ksFind s.ks r = some sk → r < s.ctxcfg.rounds.toNat ∧ subkeyIs20 sk
  /-- The rounds of every chunk accepted since chunk 0 hold a value (43_keysched.md R139). -/
  ksLoaded : ∀ c r, c < s.status.nextChunk.toNat →
    chunkRound s.status.degen s.ctxcfg.rounds.toNat c r → (ksFind s.ks r).isSome = true

end Sys2Proof.Machine
end

