-- ==== Sys2Proof/Certificates/Slice0/Obligations.lean ====
section
/-! DEFINITION. The statements about ICE-CORE. Each docstring names the rule of spec/ it formalises, and the log entry
where a clause is the model's choice. Nothing here rests on a value of Config. -/

open Sys2Proof Sys2Proof.Machine

/-- v(x): the polynomial over GF(2) whose coefficient of x^k is v[k] (40_gf_arith.md R94, law 3). -/
noncomputable def Sys2Proof.bitPolynomial {n : Nat} (v : BitVec n) : Polynomial (ZMod 2) :=
  ∑ k ∈ Finset.range n, if v.getLsbD k = true then Polynomial.X ^ k else 0

/-! ## Encoding (30_encoding.md) -/

/-- 30_encoding.md R72, R75: every command comes back from its own word, every operand at every value of its field. -/
def Obligations.DecodeOfEncodeIsTheCommand : Prop :=
  ∀ i : Instr, i.wellFormed = true → decode (encode i) = .ok i

/-- 30_encoding.md R72, R75: a legal word is the word of the command it decodes to, and that command's indices fit their
fields. -/
def Obligations.EncodeOfDecodeIsTheWord : Prop :=
  ∀ (w : Word) (i : Instr), decode w = .ok i → i.wellFormed = true ∧ encode i = w

/-- 30_encoding.md R75, R77: the mask-and-match table and the decode procedure agree on every word. No two rows select
one word; a legal word selects the row of its mnemonic; an illegal word selects no row. -/
def Obligations.OpcodeMapAgreesWithDecoder : Prop :=
  opcodeMap.Pairwise (fun r q => ∀ w : Word, ¬(r.selects w = true ∧ q.selects w = true)) ∧
  (∀ (w : Word) (i : Instr), decode w = .ok i → ∃ r ∈ opcodeMap, r.selects w = true ∧ r.mnemonic = mnemonic i) ∧
  (∀ (w : Word) (e : DecodeError), decode w = .error e → ∀ r ∈ opcodeMap, r.selects w = false)

/-- 30_encoding.md R76: exactly the words R76 names are illegal, and such a word written to CMD sets ERR and STICKY and
has no other effect. -/
def Obligations.ReservedWordsRaiseIllegalAndNothingElse : Prop :=
  ∀ w : Word,
    (0x0C ≤ (w.extractLsb' 0 8).toNat ∨ w.extractLsb' 8 8 ≠ 0 ∨
      ((w.extractLsb' 0 8).toNat ∈ [0x00, 0x01, 0x02, 0x03, 0x04, 0x06, 0x09, 0x0A, 0x0B] ∧
        w.extractLsb' 16 16 ≠ 0) ∨
      ((w.extractLsb' 0 8).toNat = 0x05 ∧ w.extractLsb' 28 4 ≠ 0) ∨
      ((w.extractLsb' 0 8).toNat = 0x08 ∧ w.extractLsb' 18 14 ≠ 0) →
      ∀ s : State, runCommand w s =
        .next { s with status := { s.status with err := .illegal, sticky := true } }) ∧
    (¬(0x0C ≤ (w.extractLsb' 0 8).toNat ∨ w.extractLsb' 8 8 ≠ 0 ∨
      ((w.extractLsb' 0 8).toNat ∈ [0x00, 0x01, 0x02, 0x03, 0x04, 0x06, 0x09, 0x0A, 0x0B] ∧
        w.extractLsb' 16 16 ≠ 0) ∨
      ((w.extractLsb' 0 8).toNat = 0x05 ∧ w.extractLsb' 28 4 ≠ 0) ∨
      ((w.extractLsb' 0 8).toNat = 0x08 ∧ w.extractLsb' 18 14 ≠ 0)) →
      ∃ i : Instr, decode w = .ok i)

/-- 30_encoding.md R71: RSV != 0 is illegal whatever the opcode. -/
def Obligations.NonzeroRsvIsIllegalWhateverTheOpcode : Prop :=
  ∀ (w : Word) (s : State), w.extractLsb' 8 8 ≠ 0 →
    runCommand w s = .next { s with status := { s.status with err := .illegal, sticky := true } }

/-- 30_encoding.md R75 and 95_test_vectors.md V-SBOX: words written out from the opcode map decode to their commands. -/
def Obligations.WordsOfTheOpcodeMapDecode : Prop :=
  decode 0x00000000 = .ok .nop ∧ decode 0x00000002 = .ok .gfExp7 ∧ decode 0x00000003 = .ok .scatter ∧
  decode 0x06000005 = .ok (.sboxRead 1 0x200) ∧ decode 0x0FFF0005 = .ok (.sboxRead 3 0x3FF) ∧
  decode 0x00010007 = .ok (.keyChunk 1) ∧ decode 0x00020008 = .ok (.ksRead 2) ∧
  decode 0x00000009 = .ok .roundF ∧ decode 0x0000000B = .ok .decrypt ∧
  decode 0x10000005 = .error .argNotZero ∧ decode 0x0000000C = .error .reservedOpcode

/-! ## Host accesses (20_memory.md) -/

/-- 10_state.md R23, 20_memory.md R57, 30_encoding.md R77: a write of a word to CMD runs the command it decodes to, whole,
on the state whose inputs and host index have moved past the access (10_state.md R25); an illegal word raises E_ILLEGAL.
The inputs and the host index are the model's form (log entry 1). -/
def Obligations.StepRunsTheDecodedCommand : Prop :=
  ∀ (s : State) (w : Word) (rest : List Input), s.inputs = .write 0x00 4 w :: rest →
    (∀ i : Instr, decode w = .ok i → step s = exec i { s with inputs := rest, hostPc := s.hostPc + 1 }) ∧
    (∀ e : DecodeError, decode w = .error e → step s =
      .next { s with inputs := rest, hostPc := s.hostPc + 1,
                     status := { s.status with err := .illegal, sticky := true } })

/-- 20_memory.md R51, R59: a word read at a register's offset returns the register and has no side effect. The value
goes to the model's list of observations (log entry 1). -/
def Obligations.ReadReturnsTheRegisterAndChangesNothing : Prop :=
  ∀ (s : State) (rest : List Input) (p : Nat × Word),
    p ∈ [(0x04, statusWord s.status), (0x08, ctxcfgWord s.ctxcfg), (0x10, s.op0), (0x14, s.op1), (0x18, s.op2),
      (0x1C, s.op3), (0x20, s.res0), (0x24, s.res1)] →
    s.inputs = .read p.1 4 :: rest →
    step s = .next { s with inputs := rest, hostPc := s.hostPc + 1, observed := s.observed ++ [p.2] }

/-- 10_state.md R21, 20_memory.md R51, R59: a write to OPn sets all 32 bits of OPn and changes only OPn, and the model's
inputs and host index move past the access (log entry 1). -/
def Obligations.OperandWriteSetsThatRegisterOnly : Prop :=
  ∀ (s : State) (v : Word) (rest : List Input),
    (s.inputs = .write 0x10 4 v :: rest →
      step s = .next { s with inputs := rest, hostPc := s.hostPc + 1, op0 := v }) ∧
    (s.inputs = .write 0x14 4 v :: rest →
      step s = .next { s with inputs := rest, hostPc := s.hostPc + 1, op1 := v }) ∧
    (s.inputs = .write 0x18 4 v :: rest →
      step s = .next { s with inputs := rest, hostPc := s.hostPc + 1, op2 := v }) ∧
    (s.inputs = .write 0x1C 4 v :: rest →
      step s = .next { s with inputs := rest, hostPc := s.hostPc + 1, op3 := v })

/-- 20_memory.md R52, R53, R54 and 92_eei_decisions.md D41: an access faults exactly when R54 calls it a bus error.
That the run stops there is the reading of log entry 4. -/
def Obligations.AccessFaultsExactlyWhenABusError : Prop :=
  ∀ (s : State) (offset bytes : Nat) (rest : List Input),
    (s.inputs = .read offset bytes :: rest →
      ((∃ f, step s = .fault f) ↔
        bytes ≠ 4 ∨ offset % 4 ≠ 0 ∨ offset ∉ [0x04, 0x08, 0x10, 0x14, 0x18, 0x1C, 0x20, 0x24])) ∧
    (∀ v : Word, s.inputs = .write offset bytes v :: rest →
      ((∃ f, step s = .fault f) ↔
        bytes ≠ 4 ∨ offset % 4 ≠ 0 ∨ offset ∉ [0x00, 0x10, 0x14, 0x18, 0x1C]))

/-- 00_scope.md R8, 20_memory.md R50, R53: the window is 64 bytes at a multiple of 64, so a bus address in it has one
offset and the alignment of that offset. -/
def Obligations.WindowStandsAtAnAlignedBase : Prop :=
  Config.iceBase % 64 = 0 ∧
  (∀ offset : Nat, offset < 64 →
    windowOffset (busAddress offset) = some offset ∧ busAddress offset % 4 = offset % 4) ∧
  (∀ address offset : Nat, windowOffset address = some offset → offset < 64 ∧ busAddress offset = address)

/-- 10_state.md R24, R28, 60_exceptions.md R200: the fields of STATUS and CTXCFG stand at their bits, the reserved bits
read as 0, and ERR has the code of its error. -/
def Obligations.StatusAndCtxcfgWordsHaveTheirFields : Prop :=
  (∀ f : Status,
    ((statusWord f).extractLsb' 0 4).toNat =
      (match f.err with
        | .success => 0 | .illegal => 1 | .modulus => 2 | .noTables => 3 | .noContext => 4
        | .noKey => 5 | .keySeq => 6 | .level => 7 | .range => 8) ∧
    (statusWord f).getLsbD 4 = f.sticky ∧ (statusWord f).extractLsb' 5 3 = 0 ∧
    (statusWord f).getLsbD 8 = f.sboxValid ∧ (statusWord f).getLsbD 9 = f.cfgValid ∧
    (statusWord f).getLsbD 10 = f.ksValid ∧ (statusWord f).getLsbD 11 = f.degen ∧
    (statusWord f).extractLsb' 12 4 = 0 ∧ (statusWord f).extractLsb' 16 16 = f.nextChunk) ∧
  (∀ c : CtxCfg, (ctxcfgWord c).extractLsb' 0 16 = c.size ∧ (ctxcfgWord c).extractLsb' 16 16 = c.rounds)

/-- 10_state.md R39, 70_reset_and_hazards.md R231, R232: what reset leaves, whatever the state was before; the stores
SBOX and KS hold no value. That reset keeps MAX_LEVEL and the inputs still to come is the model's form (log entries 2
and 7). Nothing is said of KB. -/
def Obligations.ResetLeavesTheDocumentedState : Prop :=
  (∀ (s : State) (rest : List Input), s.inputs = .reset :: rest →
    ∃ t : State, step s = .next t ∧ statusWord t.status = 0 ∧ ctxcfgWord t.ctxcfg = 0 ∧
      t.op0 = 0 ∧ t.op1 = 0 ∧ t.op2 = 0 ∧ t.op3 = 0 ∧ t.res0 = 0 ∧ t.res1 = 0 ∧
      t.sbox = none ∧ t.ks = [] ∧ t.hostPc = 0 ∧ t.inputs = rest ∧ t.maxLevel = s.maxLevel) ∧
  (statusWord State.reset.status = 0 ∧ ctxcfgWord State.reset.ctxcfg = 0 ∧ State.reset.op0 = 0 ∧
    State.reset.op1 = 0 ∧ State.reset.op2 = 0 ∧ State.reset.op3 = 0 ∧ State.reset.res0 = 0 ∧
    State.reset.res1 = 0 ∧ State.reset.sbox = none ∧ State.reset.ks = [] ∧ State.reset.hostPc = 0)

/-- 70_reset_and_hazards.md R232, read by inference (log entry 5): with no access to make, ICE-CORE waits. -/
def Obligations.NothingHappensWithoutAnInput : Prop :=
  ∀ s : State, s.inputs = [] → step s = .next s

/-! ## Errors (60_exceptions.md) -/

/-- 20_memory.md R57, 60_exceptions.md R202: every command ends, in a next state, from every state and whatever its
operands. -/
def Obligations.EveryCommandEndsInANextState : Prop :=
  ∀ (i : Instr) (s : State), ∃ t : State, exec i s = .next t

/-- 46_control.md R192, R193, 60_exceptions.md R202: no run of any length, from any state, stops with a refusal. -/
def Obligations.NoRunStopsWithARefusal : Prop :=
  ∀ (k : Nat) (s : State) (r : Refusal), Host.Core.run core k s ≠ .refused r

/-- 60_exceptions.md R205: a word reports the first of its checks that fails, in the order E_ILLEGAL (decode),
E_NO_CONTEXT, E_NO_KEY, E_NO_TABLES, the command's own operand check (firstError is R205's table), and writes ERR and
STICKY only; and KS_VALID = 1 implies CFG_VALID = 1 in every state that satisfies the invariant. -/
def Obligations.FirstFailingCheckIsReported : Prop :=
  (∀ (w : Word) (s : State) (e : DecodeError), decode w = .error e →
    runCommand w s = .next { s with status := { s.status with err := .illegal, sticky := true } }) ∧
  (∀ (w : Word) (i : Instr) (s : State) (e : ErrCode), decode w = .ok i → firstError i s = some e →
    runCommand w s = .next { s with status := { s.status with err := e, sticky := true } }) ∧
  (∀ (i : Instr) (s : State) (e : ErrCode), i.wellFormed = true → firstError i s = some e →
    exec i s = .next { s with status := { s.status with err := e, sticky := true } }) ∧
  (∀ s : State, StateInv s → s.status.ksValid = true → s.status.cfgValid = true)

/-- 60_exceptions.md R205, 10_state.md R26, R27: a command none of whose checks fails completes with ERR = 0 and leaves
STICKY as it was. -/
def Obligations.CommandSucceedsWhenNoCheckFails : Prop :=
  ∀ (i : Instr) (s : State), i.wellFormed = true → firstError i s = none →
    ∃ t : State, exec i s = .next t ∧ t.status.err = .success ∧ t.status.sticky = s.status.sticky

/-- 60_exceptions.md R203: a failed command, and an illegal word, writes STATUS.ERR and STATUS.STICKY and nothing else. -/
def Obligations.FailedCommandWritesErrAndStickyOnly : Prop :=
  (∀ (i : Instr) (s t : State), exec i s = .next t → t.status.err ≠ .success →
    t = { s with status := { s.status with err := t.status.err, sticky := true } }) ∧
  (∀ (w : Word) (s t : State), runCommand w s = .next t → t.status.err ≠ .success →
    t = { s with status := { s.status with err := t.status.err, sticky := true } })

/-- 10_state.md R27: a command that ends with a nonzero ERR leaves STICKY at 1, and only reset clears it. -/
def Obligations.StickyIsSetByErrorsAndClearedByResetOnly : Prop :=
  (∀ (i : Instr) (s t : State), exec i s = .next t → t.status.err ≠ .success → t.status.sticky = true) ∧
  (∀ (w : Word) (s t : State), runCommand w s = .next t → t.status.err ≠ .success → t.status.sticky = true) ∧
  (∀ (i : Instr) (s t : State), exec i s = .next t → s.status.sticky = true → t.status.sticky = true) ∧
  (∀ s t : State, step s = .next t → s.status.sticky = true → (∀ rest, s.inputs ≠ .reset :: rest) →
    t.status.sticky = true) ∧
  (∀ (s : State) (rest : List Input), s.inputs = .reset :: rest →
    ∃ t : State, step s = .next t ∧ t.status.sticky = false)

/-- 60_exceptions.md R210: a nonzero ERR blocks nothing. Whatever the command before it left in ERR, a command gives the
same outcome, its own ERR over the old one, and a STICKY that is 1 stays 1. -/
def Obligations.ErrorOfThePreviousCommandBlocksNothing : Prop :=
  ∀ (i : Instr) (s : State) (e : ErrCode),
    exec i { s with status := { s.status with err := e } } = exec i s ∧
    ∀ t : State, exec i s = .next t → s.status.sticky = true → t.status.sticky = true

/-! ## Frames (10_state.md R40, R41) -/

/-- 10_state.md R21 and R40: no command writes an operand register. 10_state.md R25, "No command changes it": nor the host
index. The fields MAX_LEVEL, inputs, host index and observed words are the model's own (log entries 1 and 2, DESIGN CHOICE),
and no command writes them. -/
def Obligations.NoCommandWritesOperandsOrHostState : Prop :=
  ∀ (i : Instr) (s t : State), exec i s = .next t →
    t.op0 = s.op0 ∧ t.op1 = s.op1 ∧ t.op2 = s.op2 ∧ t.op3 = s.op3 ∧ t.maxLevel = s.maxLevel ∧
    t.inputs = s.inputs ∧ t.hostPc = s.hostPc ∧ t.observed = s.observed

/-- 10_state.md R22, R40, R41: NOP and the commands with one result change RES0, ERR and STICKY only. NOP and a command
that fails leave RES0 too. RES1, CTXCFG, every other flag and the stores SBOX, KS and KB are unchanged. -/
def Obligations.OneResultCommandsChangeOnlyRes0AndErr : Prop :=
  ∀ (i : Instr) (s t : State),
    (i = .nop ∨ i = .gfMul ∨ i = .gfExp7 ∨ i = .scatter ∨ (∃ n k, i = .sboxRead n k) ∨ (∃ w, i = .ksRead w) ∨
      i = .roundF) →
    exec i s = .next t →
    t = { s with res0 := t.res0,
                 status := { s.status with
                   err := t.status.err,
                   sticky := s.status.sticky || decide (t.status.err ≠ .success) } } ∧
    (i = .nop ∨ t.status.err ≠ .success → t.res0 = s.res0)

/-- 10_state.md R40, R41: ENCRYPT and DECRYPT change RES0, RES1, ERR and STICKY only, and a failing one leaves RES0 and
RES1. CTXCFG, every other flag and the stores SBOX, KS and KB are unchanged. -/
def Obligations.BlockCommandsChangeOnlyResultsAndErr : Prop :=
  ∀ (i : Instr) (s t : State), (i = .encrypt ∨ i = .decrypt) → exec i s = .next t →
    t = { s with res0 := t.res0, res1 := t.res1,
                 status := { s.status with
                   err := t.status.err,
                   sticky := s.status.sticky || decide (t.status.err ≠ .success) } } ∧
    (t.status.err ≠ .success → t.res0 = s.res0 ∧ t.res1 = s.res1)

/-- 10_state.md R40, R41: CTX.CONFIG changes CTXCFG, the KS store, CFG_VALID, DEGEN, KS_VALID, NEXT_CHUNK, ERR and STICKY
only. -/
def Obligations.CtxConfigChangesOnlyTheContext : Prop :=
  ∀ s t : State, exec .ctxConfig s = .next t →
    t = { s with ctxcfg := t.ctxcfg, ks := t.ks,
                 status := { t.status with
                   sboxValid := s.status.sboxValid,
                   sticky := s.status.sticky || decide (t.status.err ≠ .success) } }

/-- 10_state.md R40, R41, 43_keysched.md R134, R139: KEY.CHUNK changes KB, KS, KS_VALID, NEXT_CHUNK, ERR and STICKY
only, and of KS only the rounds of its chunk: every other round reads as before. -/
def Obligations.KeyChunkChangesOnlyItsRounds : Prop :=
  ∀ (c : Nat) (s t : State), exec (.keyChunk c) s = .next t →
    t = { s with kb := t.kb, ks := t.ks,
                 status := { s.status with
                   ksValid := t.status.ksValid, nextChunk := t.status.nextChunk, err := t.status.err,
                   sticky := s.status.sticky || decide (t.status.err ≠ .success) } } ∧
    (∀ r w : Nat, ¬chunkRound s.status.degen s.ctxcfg.rounds.toNat c r → t.ksRead r w = s.ksRead r w)

/-! ## NOP (46_control.md) -/

/-- 46_control.md R190: the word 0x00000000 is NOP; it sets ERR to 0 and changes nothing else; with OPC 0x00 every other
word is illegal; the rule's example. -/
def Obligations.NopClearsErrAndNothingElse : Prop :=
  decode 0x00000000 = .ok .nop ∧
  (∀ s : State, exec .nop s = .next { s with status := { s.status with err := .success } }) ∧
  (∀ (w : Word) (s : State), w.extractLsb' 0 8 = 0 → (w.extractLsb' 8 8 ≠ 0 ∨ w.extractLsb' 16 16 ≠ 0) →
    runCommand w s = .next { s with status := { s.status with err := .illegal, sticky := true } }) ∧
  (∀ s : State, statusWord s.status = 0x00000011 →
    ∃ t : State, runCommand 0x00000000 s = .next t ∧ statusWord t.status = 0x00000010)

/-! ## GF arithmetic (40_gf_arith.md) -/

/-- 40_gf_arith.md R92, R94 law 3: with OP2[8] = 1, GF.MUL completes and RES0 is the product of the polynomials of
OP0[7:0] and OP1[7:0] reduced modulo that of OP2[8:0]; only RES0 and ERR change. -/
def Obligations.GfMulIsThePolynomialProduct : Prop :=
  ∀ s : State, s.op2.getLsbD 8 = true →
    ∃ r : Byte,
      exec .gfMul s = .next { s with res0 := r.setWidth 32, status := { s.status with err := .success } } ∧
      bitPolynomial r =
        (bitPolynomial (s.op0.extractLsb' 0 8) * bitPolynomial (s.op1.extractLsb' 0 8)).modByMonic
          (bitPolynomial (s.op2.extractLsb' 0 9))

/-- 40_gf_arith.md R93, R94 law 4: with OP2[8] = 1, GF.EXP7 completes and RES0 is the seventh power of the polynomial of
OP0[7:0] modulo that of OP2[8:0]; only RES0 and ERR change. -/
def Obligations.GfExp7IsTheSeventhPower : Prop :=
  ∀ s : State, s.op2.getLsbD 8 = true →
    ∃ r : Byte,
      exec .gfExp7 s = .next { s with res0 := r.setWidth 32, status := { s.status with err := .success } } ∧
      bitPolynomial r =
        (bitPolynomial (s.op0.extractLsb' 0 8) ^ 7).modByMonic (bitPolynomial (s.op2.extractLsb' 0 9))

/-- 40_gf_arith.md R94 law 2: the loop of gfMultiply is over after eight passes, so further passes change nothing. -/
def Obligations.GfLoopIsOverAfterEightPasses : Prop :=
  ∀ (fuel : Nat) (m aa : Modulus) (res bb : Byte),
    gfMultiplyLoop m (8 + fuel) res aa bb = gfMultiplyLoop m 8 res aa bb

/-! ## Bit scatter (41_scatter.md) -/

/-- 41_scatter.md R101, R102, and R103's inverse map, which the spec derives from R100 and R102: SCATTER completes and
bit j of RES0 is bit INV[j] of OP0; only RES0 and ERR change. Rests on the values of PBOX (log entry 13). -/
def Obligations.ScatterMovesEachBitToItsPlace : Prop :=
  ∀ s : State, ∃ r : Word,
    exec .scatter s = .next { s with res0 := r, status := { s.status with err := .success } } ∧
    ∀ j : Nat, j < 32 → r.getLsbD j = s.op0.getLsbD (scatterSource[j]?.getD 0)

/-- 41_scatter.md R103, which the spec derives from R100 and R102: the scatter is a permutation of the 32 positions with
inverse map INV, so a bijection that keeps the number of set bits; it is linear over XOR and fixes 0 and 0xFFFFFFFF. Rests
on the values of PBOX (log entry 13). -/
def Obligations.ScatterIsALinearPermutationOfBits : Prop :=
  scatterSource.Perm (List.range 32) ∧
  (∀ (x : Word) (j : Nat), j < 32 → (scatter32 x).getLsbD j = x.getLsbD (scatterSource[j]?.getD 0)) ∧
  Function.Bijective scatter32 ∧
  (∀ x : Word, setBits (scatter32 x) = setBits x) ∧
  (∀ x y : Word, scatter32 (x ^^^ y) = scatter32 x ^^^ scatter32 y) ∧
  scatter32 0 = 0 ∧ scatter32 0xFFFFFFFF = 0xFFFFFFFF

/-- 41_scatter.md R100, which the spec derives from the quoted loop: that loop, which ends early, and the fixed form give
the same word. -/
def Obligations.ScatterLoopEqualsItsFixedForm : Prop :=
  ∀ (x : Word) (fuel : Nat), scatterLoop (32 + fuel) x 0 0 = scatter32 x

/-! ## Substitution tables (42_sbox.md) -/

/-- 42_sbox.md R112, R113, R114: SBOX.BUILD completes, writes every entry by the formula, sets SBOX_VALID and changes
nothing else but ERR; a second build changes nothing. -/
def Obligations.SboxBuildFillsEveryEntry : Prop :=
  ∀ s : State, ∃ t : State, exec .sboxBuild s = .next t ∧
    t = { s with sbox := t.sbox, status := { s.status with err := .success, sboxValid := true } } ∧
    (∀ n i : Nat, n < 4 → i < 1024 → t.sboxRead n i = entryByNumbers n i) ∧
    exec .sboxBuild t = .next t

/-- 42_sbox.md R113, R115: SBOX.READ completes when the tables are valid and RES0 is the entry of the formula; only RES0
and ERR change. The invariant says that the store then holds the built tables. -/
def Obligations.SboxReadReturnsTheEntry : Prop :=
  ∀ (s : State) (n i : Nat), StateInv s → s.status.sboxValid = true → n < 4 → i < 1024 →
    exec (.sboxRead n i) s =
      .next { s with res0 := entryByNumbers n i, status := { s.status with err := .success } }

/-- 41_scatter.md R104 and 42_sbox.md R116, which the spec derives from R102 and R113: LANE[t] is the scatter of source
byte 3 - t, eight positions; the four lanes are disjoint and cover all 32 bits; every entry of table t has its set bits only
in LANE[t]; and the OR of one entry from each table equals their XOR. Rests on the values of PBOX (log entry 13). -/
def Obligations.TableEntriesStayInTheirLanes : Prop :=
  (∀ n : Nat, n < 4 → scatter32 (0xFF <<< (8 * (3 - n))) = lane n ∧ setBits (lane n) = 8) ∧
  lane 0 ||| lane 1 ||| lane 2 ||| lane 3 = 0xFFFFFFFF ∧
  (∀ n i : Nat, n < 4 → i < 1024 → sboxEntry n i &&& ~~~(lane n) = 0) ∧
  (∀ n k : Nat, n < 4 → k < 4 → n ≠ k → lane n &&& lane k = 0) ∧
  (∀ a b c d : Nat, a < 1024 → b < 1024 → c < 1024 → d < 1024 →
    sboxEntry 0 a ||| sboxEntry 1 b ||| sboxEntry 2 c ||| sboxEntry 3 d =
      sboxEntry 0 a ^^^ sboxEntry 1 b ^^^ sboxEntry 2 c ^^^ sboxEntry 3 d)

/-- 42_sbox.md R117, first property, and 40_gf_arith.md R94 law 5, which the spec derives by evaluation: in one table and
row, different columns have different entries. Rests on the values of PBOX, SXOR and SMOD (log entry 13). -/
def Obligations.EntriesOfOneRowAreDistinct : Prop :=
  ∀ n row a b : Nat, n < 4 → row < 4 → a < 256 → b < 256 →
    sboxEntry n (indexOf row a) = sboxEntry n (indexOf row b) → a = b

/-- 42_sbox.md R117, which the spec derives by evaluation: from every state SBOX.BUILD completes, and the four tables it
leaves have R117's XORs, sums and weighted sums; and ROT is the table of 43_keysched.md R130. Fixes the values of SXOR, SMOD,
PBOX and ROT that the model takes from the spec (log entry 13). -/
def Obligations.ConstantTablesReproduceTheChecksums : Prop :=
  (∀ s : State, ∃ t : State, exec .sboxBuild s = .next t ∧
    ∀ row : Nat × Word × Word,
      row ∈ [(0, 0x28308400, 0x408FBB40), (1, 0x85042800, 0xD2A3AC00), (2, 0x02825000, 0x76A6DBC0),
        (3, 0x50490200, 0x09921BD0)] →
      tableXor (t.sboxRead row.1) = 0 ∧ tableSum (t.sboxRead row.1) = row.2.1 ∧
      tableWeightedSum (t.sboxRead row.1) = row.2.2) ∧
  (List.range 16).map rot = [0, 1, 2, 3, 2, 1, 3, 0, 1, 3, 2, 0, 3, 1, 0, 2]

/-! ## Context and key schedule (43_keysched.md) -/

/-- 43_keysched.md R133: CTX.CONFIG with a level below 1 completes in degenerate mode and discards the schedule. -/
def Obligations.LevelBelowOneGivesDegenerateMode : Prop :=
  ∀ s : State, s.op0.toInt < 1 →
    ∃ t : State, exec .ctxConfig s = .next t ∧ ctxcfgWord t.ctxcfg = 0x00080001 ∧ t.ks = [] ∧
      t.status = { s.status with
        err := .success, cfgValid := true, degen := true, ksValid := false, nextChunk := 0 }

/-- 43_keysched.md R133, 10_state.md R28: CTX.CONFIG with 1 <= level <= MAX_LEVEL completes with SIZE = level and ROUNDS =
16 x level, whatever MAX_LEVEL of 1..4095 the implementation has (a field of State, log entry 2), and discards the schedule. -/
def Obligations.LevelUpToMaxLevelConfiguresTheContext : Prop :=
  ∀ s : State, s.maxLevel ≤ 4095 → 1 ≤ s.op0.toInt → s.op0.toInt ≤ s.maxLevel →
    ∃ t : State, exec .ctxConfig s = .next t ∧ (t.ctxcfg.size.toNat : Int) = s.op0.toInt ∧
      (t.ctxcfg.rounds.toNat : Int) = 16 * s.op0.toInt ∧ t.ks = [] ∧
      t.status = { s.status with
        err := .success, cfgValid := true, degen := false, ksValid := false, nextChunk := 0 }

/-- 43_keysched.md R131, R132, R134, R137, R138, R139, general mode: KEY.CHUNK c completes, its two groups of eight
rounds are the closed form of the feedback register (the second call goes on from the buffer the first left), NEXT_CHUNK
is c + 1 and KS_VALID follows 10_state.md R31. -/
def Obligations.KeyChunkSchedulesTheClosedForm : Prop :=
  ∀ (c : Nat) (s : State), s.status.cfgValid = true → s.status.degen = false →
    s.ctxcfg.rounds.toNat = 16 * s.ctxcfg.size.toNat → c < s.ctxcfg.size.toNat →
    (c = 0 ∨ c = s.status.nextChunk.toNat) →
    ∃ t : State, exec (.keyChunk c) s = .next t ∧ t.status.err = .success ∧
      t.status.nextChunk.toNat = c + 1 ∧
      t.status.ksValid =
        (if c + 1 = s.ctxcfg.size.toNat then true else if c = 0 then false else s.status.ksValid) ∧
      ∀ i w : Nat, i < 8 → w < 3 →
        t.ksRead (8 * c + i) w = scheduleWord (chunkBuffer s.op0 s.op1) 0 0 i w ∧
        t.ksRead (s.ctxcfg.rounds.toNat - 8 - 8 * c + i) w = scheduleWord (chunkBuffer s.op0 s.op1) 8 1 i w

/-- 43_keysched.md R131, R132, R134, R138, R140, degenerate mode: KEY.CHUNK 0 completes, writes rounds 0 to 7 by the
closed form with ROT[0..7] only, and sets KS_VALID. -/
def Obligations.DegenerateKeyChunkSchedulesEightRounds : Prop :=
  ∀ s : State, s.status.cfgValid = true → s.status.degen = true → s.ctxcfg.size.toNat = 1 →
    ∃ t : State, exec (.keyChunk 0) s = .next t ∧ t.status.err = .success ∧ t.status.nextChunk.toNat = 1 ∧
      t.status.ksValid = true ∧
      (∀ i w : Nat, i < 8 → w < 3 → t.ksRead i w = scheduleWord (chunkBuffer s.op0 s.op1) 0 0 i w) ∧
      (∀ r w : Nat, 8 ≤ r → t.ksRead r w = s.ksRead r w)

/-- 43_keysched.md R136: every word that buildRoundKeys makes is below 2^20. -/
def Obligations.SubkeyWordsHaveTwentyBits : Prop :=
  ∀ (kr : Nat) (kb : KeyBuffer), subkeyIs20 (roundSubkey kr kb).1

/-- 43_keysched.md R135, R136, 10_state.md R35: with a schedule set and the index in range, KS.READ completes, RES0 is
the word of the round, which the store holds, and it is below 2^20; only RES0 and ERR change. -/
def Obligations.KsReadReturnsTheSubkeyWord : Prop :=
  ∀ (s : State) (w : Nat), StateInv s → s.status.ksValid = true → s.op0.toNat < s.ctxcfg.rounds.toNat → w < 3 →
    ∃ sk : Subkey, ksFind s.ks s.op0.toNat = some sk ∧ (subkeyWord sk w).toNat < 2 ^ 20 ∧
      exec (.ksRead w) s =
        .next { s with res0 := subkeyWord sk w, status := { s.status with err := .success } }

/-- 43_keysched.md R139: in general mode, loading a key of SIZE chunks in order leaves every round of the schedule at
its closed form, chunk c in rounds 8c .. 8c+7 and ROUNDS-8-8c .. ROUNDS-1-8c, and KS_VALID = 1. -/
def Obligations.LoadingAllChunksBuildsTheSchedule : Prop :=
  ∀ (s : State) (key : List (Word × Word)), s.status.cfgValid = true → s.status.degen = false →
    key.length = s.ctxcfg.size.toNat → key ≠ [] → s.ctxcfg.rounds.toNat = 16 * s.ctxcfg.size.toNat →
    ∃ t : State, loadKey 0 key s = some t ∧ t.status.ksValid = true ∧ t.status.nextChunk = s.ctxcfg.size ∧
      ∀ (c i w : Nat) (hi lo : Word), key[c]? = some (hi, lo) → i < 8 → w < 3 →
        t.ksRead (8 * c + i) w = scheduleWord (chunkBuffer hi lo) 0 0 i w ∧
        t.ksRead (s.ctxcfg.rounds.toNat - 8 - 8 * c + i) w = scheduleWord (chunkBuffer hi lo) 8 1 i w

/-- 43_keysched.md R141, 90_conflicts.md C1: levels 0 and 1 both take one chunk and share rounds 0 to 7; level 0 runs 8
rounds and level 1 runs 16. -/
def Obligations.LevelsZeroAndOneShareTheirFirstRounds : Prop :=
  ∀ (s : State) (hi lo : Word), 1 ≤ s.maxLevel →
    ∃ a b a' b' : State,
      exec .ctxConfig { s with op0 := 0 } = .next a ∧ exec .ctxConfig { s with op0 := 1 } = .next b ∧
      loadKey 0 [(hi, lo)] a = some a' ∧ loadKey 0 [(hi, lo)] b = some b' ∧
      a'.status.ksValid = true ∧ b'.status.ksValid = true ∧
      a'.ctxcfg.rounds.toNat = 8 ∧ b'.ctxcfg.rounds.toNat = 16 ∧
      ∀ r w : Nat, r < 8 → w < 3 → a'.ksRead r w = b'.ksRead r w

/-! ## Round function (44_round.md) -/

/-- 44_round.md R160, which the spec derives from the quoted expressions: the bit-by-bit expansion agrees with the expressions the document writes, for every p, with 32-bit
shifts and with unbounded ones; and the eight bits of p that appear twice, each of the other 24 once. -/
def Obligations.ExpansionAgreesWithTheQuotedExpressions : Prop :=
  (∀ j : Nat, j < 32 →
    setBits ((expandLeft (1#32 <<< j)).setWidth 32) + setBits ((expandRight (1#32 <<< j)).setWidth 32) =
      if j ∈ [0, 1, 8, 9, 16, 17, 24, 25] then 2 else 1) ∧
  ∀ p : Word, (expandLeft p).setWidth 32 = quotedLeft p ∧ (expandRight p).setWidth 32 = quotedRight p ∧
    (expandLeft p).toNat =
      ((p.toNat >>> 16) &&& 0x3FF) ||| (((p.toNat >>> 14) ||| (p.toNat <<< 18)) &&& 0xFFC00) ∧
    (expandRight p).toNat = (p.toNat &&& 0x3FF) ||| ((p.toNat <<< 2) &&& 0xFFC00) ∧
    (∀ b : Nat, b < 10 →
      (expandLeft p).getLsbD b = p.getLsbD (16 + b) ∧ (expandRight p).getLsbD b = p.getLsbD b ∧
      (expandRight p).getLsbD (10 + b) = p.getLsbD (8 + b)) ∧
    (∀ b : Nat, b < 8 → (expandLeft p).getLsbD (10 + b) = p.getLsbD (24 + b)) ∧
    (expandLeft p).extractLsb' 18 2 = p.extractLsb' 0 2 ∧ (expandRight p).extractLsb' 0 2 = p.extractLsb' 0 2 ∧
    (expandRight p).extractLsb' 8 2 = p.extractLsb' 8 2 ∧ (expandRight p).extractLsb' 10 2 = p.extractLsb' 8 2 ∧
    (expandLeft p).extractLsb' 0 2 = p.extractLsb' 16 2 ∧ (expandRight p).extractLsb' 18 2 = p.extractLsb' 16 2 ∧
    (expandLeft p).extractLsb' 8 2 = p.extractLsb' 24 2 ∧ (expandLeft p).extractLsb' 10 2 = p.extractLsb' 24 2

/-- 44_round.md R161: where sk2 has a 1 the bits of tl and tr swap, where it has a 0 they stay; then sk0 and sk1 are
XORed in. -/
def Obligations.SaltSwapsBitsBeforeTheKeyXor : Prop :=
  ∀ (tl tr sk0 sk1 sk2 : Key20) (b : Nat), b < 20 →
    (mixLeft tl tr sk0 sk2).getLsbD b =
      ((if sk2.getLsbD b = true then tr.getLsbD b else tl.getLsbD b) ^^ sk0.getLsbD b) ∧
    (mixRight tl tr sk1 sk2).getLsbD b =
      ((if sk2.getLsbD b = true then tl.getLsbD b else tr.getLsbD b) ^^ sk1.getLsbD b)

/-- 44_round.md R162, R163, R164: with the tables built, ROUND.F completes, only RES0 and ERR change, and each lane of
RES0 is the table entry its index picks. -/
def Obligations.RoundFResultIsOneEntryPerLane : Prop :=
  ∀ s : State, s.status.sboxValid = true → s.sbox = some builtTables →
    ∃ r : Word, exec .roundF s = .next { s with res0 := r, status := { s.status with err := .success } } ∧
      (let al := mixLeft (expandLeft s.op0) (expandRight s.op0) (s.op1.extractLsb' 0 20) (s.op3.extractLsb' 0 20)
       let ar := mixRight (expandLeft s.op0) (expandRight s.op0) (s.op2.extractLsb' 0 20) (s.op3.extractLsb' 0 20)
       r &&& lane 0 = sboxEntry 0 (al.extractLsb' 10 10).toNat ∧
       r &&& lane 1 = sboxEntry 1 (al.extractLsb' 0 10).toNat ∧
       r &&& lane 2 = sboxEntry 2 (ar.extractLsb' 10 10).toNat ∧
       r &&& lane 3 = sboxEntry 3 (ar.extractLsb' 0 10).toNat)

/-- 44_round.md R163, 93_implementation_defined.md U19: the upper 12 bits of OP1 to OP3 do not show in ROUND.F's result. -/
def Obligations.RoundFIgnoresUpperOperandBits : Prop :=
  ∀ (s t : State) (a b c : Word), a.extractLsb' 0 20 = s.op1.extractLsb' 0 20 →
    b.extractLsb' 0 20 = s.op2.extractLsb' 0 20 → c.extractLsb' 0 20 = s.op3.extractLsb' 0 20 →
    exec .roundF s = .next t →
    exec .roundF { s with op1 := a, op2 := b, op3 := c } = .next { t with op1 := a, op2 := b, op3 := c }

/-! ## Feistel engine (45_feistel.md) -/

/-- 45_feistel.md R170, R171, R173, R174: with context, key and tables, ENCRYPT completes; its halves follow the two
updates of every pass i = 0, 2, ..., ROUNDS-2, round r being roundF with KS[r][0], KS[r][1], KS[r][2] in that order (their
low 20 bits, which are all of them, 43_keysched.md R136), and the output is right then left. Only RES0, RES1 and ERR
change. -/
def Obligations.EncryptRunsTheRoundsForward : Prop :=
  ∀ s : State, s.status.cfgValid = true → s.status.ksValid = true → s.status.sboxValid = true →
    let round (r : Nat) (p : Word) : Word := roundFunction s.sbox p
      ((s.ksRead r 0).extractLsb' 0 20) ((s.ksRead r 1).extractLsb' 0 20) ((s.ksRead r 2).extractLsb' 0 20)
    ∃ left right : Nat → Word, left 0 = s.op0 ∧ right 0 = s.op1 ∧
      (∀ p : Nat, 2 * p + 1 < s.ctxcfg.rounds.toNat →
        left (p + 1) = left p ^^^ round (2 * p) (right p) ∧
        right (p + 1) = right p ^^^ round (2 * p + 1) (left (p + 1))) ∧
      exec .encrypt s =
        .next { s with res0 := right (s.ctxcfg.rounds.toNat / 2), res1 := left (s.ctxcfg.rounds.toNat / 2),
                       status := { s.status with err := .success } }

/-- 45_feistel.md R170, R172, R173, R175: the same for DECRYPT with i = ROUNDS-1, ROUNDS-3, ..., 1 and the
same words KS[r][0], KS[r][1], KS[r][2] of round r. -/
def Obligations.DecryptRunsTheRoundsBackward : Prop :=
  ∀ s : State, s.status.cfgValid = true → s.status.ksValid = true → s.status.sboxValid = true →
    let round (r : Nat) (p : Word) : Word := roundFunction s.sbox p
      ((s.ksRead r 0).extractLsb' 0 20) ((s.ksRead r 1).extractLsb' 0 20) ((s.ksRead r 2).extractLsb' 0 20)
    ∃ left right : Nat → Word, left 0 = s.op0 ∧ right 0 = s.op1 ∧
      (∀ p : Nat, 2 * p + 1 < s.ctxcfg.rounds.toNat →
        left (p + 1) = left p ^^^ round (s.ctxcfg.rounds.toNat - 1 - 2 * p) (right p) ∧
        right (p + 1) = right p ^^^ round (s.ctxcfg.rounds.toNat - 2 - 2 * p) (left (p + 1))) ∧
      exec .decrypt s =
        .next { s with res0 := right (s.ctxcfg.rounds.toNat / 2), res1 := left (s.ctxcfg.rounds.toNat / 2),
                       status := { s.status with err := .success } }

/-- 45_feistel.md R176 and the last corner case of R175, which the spec derives from R171 to R173: DECRYPT of ENCRYPT's
output under the same schedule and tables is the original block, for every schedule, and ENCRYPT of DECRYPT's output as
well; each of the two loops undoes the other, for any function in place of roundF. -/
def Obligations.DecryptUndoesEncrypt : Prop :=
  (∀ (f : Nat → Word → Word) (rounds : Nat) (h : Halves), rounds % 2 = 0 →
    decryptRounds f rounds ⟨(encryptRounds f rounds h).right, (encryptRounds f rounds h).left⟩ =
      ⟨h.right, h.left⟩ ∧
    encryptRounds f rounds ⟨(decryptRounds f rounds h).right, (decryptRounds f rounds h).left⟩ =
      ⟨h.right, h.left⟩) ∧
  (∀ s : State, s.status.cfgValid = true → s.status.ksValid = true → s.status.sboxValid = true →
    s.ctxcfg.rounds.toNat % 2 = 0 →
    (∃ t u : State, exec .encrypt s = .next t ∧ exec .decrypt { t with op0 := t.res0, op1 := t.res1 } = .next u ∧
      u.res0 = s.op0 ∧ u.res1 = s.op1) ∧
    (∃ t u : State, exec .decrypt s = .next t ∧ exec .encrypt { t with op0 := t.res0, op1 := t.res1 } = .next u ∧
      u.res0 = s.op0 ∧ u.res1 = s.op1))

/-- 45_feistel.md R177, which the spec derives from R174 and R175: a block command that succeeds writes only RES0, RES1
and ERR, and two states that agree on OP0, OP1, ROUNDS, the schedule below ROUNDS and the tables give the same block result,
whatever else differs. -/
def Obligations.BlockResultDependsOnBlockScheduleAndTablesOnly : Prop :=
  (∀ (i : Instr) (s t : State), (i = .encrypt ∨ i = .decrypt) → exec i s = .next t → t.status.err = .success →
    t = { s with res0 := t.res0, res1 := t.res1, status := { s.status with err := .success } }) ∧
  ∀ (i : Instr) (s s' t t' : State), (i = .encrypt ∨ i = .decrypt) →
    s.op0 = s'.op0 → s.op1 = s'.op1 → s.ctxcfg.rounds = s'.ctxcfg.rounds →
    (∀ r w : Nat, r < s.ctxcfg.rounds.toNat → w < 3 → s.ksRead r w = s'.ksRead r w) →
    (∀ n k : Nat, n < 4 → k < 1024 → s.sboxRead n k = s'.sboxRead n k) →
    exec i s = .next t → exec i s' = .next t' → t.status.err = .success → t'.status.err = .success →
    t.res0 = t'.res0 ∧ t.res1 = t'.res1

/-! ## Lifecycle (10_state.md, 70_reset_and_hazards.md) -/

/-- 10_state.md R29, 70_reset_and_hazards.md R235: SBOX.BUILD sets SBOX_VALID, no other command writes it or the tables,
and no step but reset clears it. -/
def Obligations.TablesAreBuiltByBuildAndLostByResetOnly : Prop :=
  (∀ s t : State, exec .sboxBuild s = .next t → t.status.sboxValid = true) ∧
  (∀ (i : Instr) (s t : State), i ≠ .sboxBuild → exec i s = .next t →
    t.status.sboxValid = s.status.sboxValid ∧ t.sbox = s.sbox) ∧
  (∀ s t : State, step s = .next t → s.status.sboxValid = true → (∀ rest, s.inputs ≠ .reset :: rest) →
    t.status.sboxValid = true)

/-- 10_state.md R30: CFG_VALID is 0 after reset; a successful CTX.CONFIG sets it, no other command changes it, and it
stays 1 until reset; KEY.CHUNK, KS.READ, ENCRYPT and DECRYPT raise E_NO_CONTEXT while it is 0. -/
def Obligations.ContextStaysConfiguredUntilReset : Prop :=
  State.reset.status.cfgValid = false ∧
  (∀ (s : State) (rest : List Input), s.inputs = .reset :: rest →
    ∃ t : State, step s = .next t ∧ t.status.cfgValid = false) ∧
  (∀ (i : Instr) (s : State),
    ((∃ c, i = .keyChunk c) ∨ (∃ w, i = .ksRead w) ∨ i = .encrypt ∨ i = .decrypt) → s.status.cfgValid = false →
    exec i s = .next { s with status := { s.status with err := .noContext, sticky := true } }) ∧
  (∀ s t : State, exec .ctxConfig s = .next t → t.status.err = .success → t.status.cfgValid = true) ∧
  (∀ (i : Instr) (s t : State), i ≠ .ctxConfig → exec i s = .next t → t.status.cfgValid = s.status.cfgValid) ∧
  (∀ s t : State, step s = .next t → s.status.cfgValid = true → (∀ rest, s.inputs ≠ .reset :: rest) →
    t.status.cfgValid = true)

/-- 70_reset_and_hazards.md R234: the transitions of the context state, in states that satisfy the invariant. A successful
CTX.CONFIG goes to LOADING(0); KEY.CHUNK c succeeds exactly when c < SIZE and c is 0 or the n of LOADING(n), and goes to
SET with the last chunk, else to LOADING(c + 1); every other command and every failing one keeps the context state. -/
def Obligations.ContextMovesAsItsStateMachineSays : Prop :=
  ∀ s : State, StateInv s →
    (∀ t, exec .ctxConfig s = .next t → t.status.err = .success → contextState t = .loading 0) ∧
    (∀ c t, exec (.keyChunk c) s = .next t → t.status.err = .success →
      contextState t = if c + 1 = s.ctxcfg.size.toNat then .set else .loading (c + 1)) ∧
    (∀ c t, exec (.keyChunk c) s = .next t →
      (t.status.err = .success ↔
        contextState s ≠ .none ∧ c < s.ctxcfg.size.toNat ∧ (c = 0 ∨ contextState s = .loading c))) ∧
    (∀ i t, exec i s = .next t →
      (t.status.err ≠ .success ∨ (i ≠ .ctxConfig ∧ ∀ c, i ≠ .keyChunk c)) → contextState t = contextState s)

/-- 00_scope.md R7, 10_state.md R24 to R35: the invariant holds right after reset. -/
def Obligations.ResetSatisfiesTheInvariant : Prop := StateInv State.reset

/-- Every step keeps the invariant: the lifecycle flags, CTXCFG, NEXT_CHUNK, the tables and the schedule stay as
10_state.md R24 to R35, 43_keysched.md R136, R139 and 70_reset_and_hazards.md R234 describe them, from every state that
satisfies it. The field MAX_LEVEL and the canonical form of KS are the model's (log entries 2 and 21). -/
def Obligations.EveryStepKeepsTheInvariant : Prop :=
  ∀ s t : State, StateInv s → step s = .next t → StateInv t

/-! ## Assembly language (30_encoding.md) -/

/-- 30_encoding.md R78: the line of a command is accepted exactly when its arguments are in range, and the access it
assembles to runs that command. The inputs and the host index are the model's form (log entry 1). -/
def Obligations.AssembledCommandRunsThatCommand : Prop :=
  ∀ i : Instr,
    (i.wellFormed = false → assembleLine (.command i) = none) ∧
    (i.wellFormed = true → ∃ a : Input, assembleLine (.command i) = some a ∧
      ∀ (s : State) (rest : List Input), s.inputs = a :: rest →
        step s = exec i { s with inputs := rest, hostPc := s.hostPc + 1 })
end

