-- ==== Sys2Proof/Laws/State.lean ====
section
/-! SUPPORT. One lemma per field per update of State: no later proof unfolds a record update. -/

namespace Sys2Proof.Machine

@[simp] theorem State.raise_status (s : State) (e : ErrCode) :
    (s.raise e).status = { s.status with err := e, sticky := true } := rfl
@[simp] theorem State.raise_ctxcfg (s : State) (e : ErrCode) : (s.raise e).ctxcfg = s.ctxcfg := rfl
@[simp] theorem State.raise_op0 (s : State) (e : ErrCode) : (s.raise e).op0 = s.op0 := rfl
@[simp] theorem State.raise_op1 (s : State) (e : ErrCode) : (s.raise e).op1 = s.op1 := rfl
@[simp] theorem State.raise_op2 (s : State) (e : ErrCode) : (s.raise e).op2 = s.op2 := rfl
@[simp] theorem State.raise_op3 (s : State) (e : ErrCode) : (s.raise e).op3 = s.op3 := rfl
@[simp] theorem State.raise_res0 (s : State) (e : ErrCode) : (s.raise e).res0 = s.res0 := rfl
@[simp] theorem State.raise_res1 (s : State) (e : ErrCode) : (s.raise e).res1 = s.res1 := rfl
@[simp] theorem State.raise_sbox (s : State) (e : ErrCode) : (s.raise e).sbox = s.sbox := rfl
@[simp] theorem State.raise_ks (s : State) (e : ErrCode) : (s.raise e).ks = s.ks := rfl
@[simp] theorem State.raise_kb (s : State) (e : ErrCode) : (s.raise e).kb = s.kb := rfl
@[simp] theorem State.raise_maxLevel (s : State) (e : ErrCode) : (s.raise e).maxLevel = s.maxLevel := rfl
@[simp] theorem State.raise_inputs (s : State) (e : ErrCode) : (s.raise e).inputs = s.inputs := rfl
@[simp] theorem State.raise_hostPc (s : State) (e : ErrCode) : (s.raise e).hostPc = s.hostPc := rfl
@[simp] theorem State.raise_observed (s : State) (e : ErrCode) : (s.raise e).observed = s.observed := rfl

@[simp] theorem State.done_status (s : State) : s.done.status = { s.status with err := .success } := rfl
@[simp] theorem State.done_ctxcfg (s : State) : s.done.ctxcfg = s.ctxcfg := rfl
@[simp] theorem State.done_op0 (s : State) : s.done.op0 = s.op0 := rfl
@[simp] theorem State.done_op1 (s : State) : s.done.op1 = s.op1 := rfl
@[simp] theorem State.done_op2 (s : State) : s.done.op2 = s.op2 := rfl
@[simp] theorem State.done_op3 (s : State) : s.done.op3 = s.op3 := rfl
@[simp] theorem State.done_res0 (s : State) : s.done.res0 = s.res0 := rfl
@[simp] theorem State.done_res1 (s : State) : s.done.res1 = s.res1 := rfl
@[simp] theorem State.done_sbox (s : State) : s.done.sbox = s.sbox := rfl
@[simp] theorem State.done_ks (s : State) : s.done.ks = s.ks := rfl
@[simp] theorem State.done_kb (s : State) : s.done.kb = s.kb := rfl
@[simp] theorem State.done_maxLevel (s : State) : s.done.maxLevel = s.maxLevel := rfl
@[simp] theorem State.done_inputs (s : State) : s.done.inputs = s.inputs := rfl
@[simp] theorem State.done_hostPc (s : State) : s.done.hostPc = s.hostPc := rfl
@[simp] theorem State.done_observed (s : State) : s.done.observed = s.observed := rfl

@[simp] theorem State.setRes0_status (s : State) (v : Word) : (s.setRes0 v).status = s.status := rfl
@[simp] theorem State.setRes0_ctxcfg (s : State) (v : Word) : (s.setRes0 v).ctxcfg = s.ctxcfg := rfl
@[simp] theorem State.setRes0_op0 (s : State) (v : Word) : (s.setRes0 v).op0 = s.op0 := rfl
@[simp] theorem State.setRes0_op1 (s : State) (v : Word) : (s.setRes0 v).op1 = s.op1 := rfl
@[simp] theorem State.setRes0_op2 (s : State) (v : Word) : (s.setRes0 v).op2 = s.op2 := rfl
@[simp] theorem State.setRes0_op3 (s : State) (v : Word) : (s.setRes0 v).op3 = s.op3 := rfl
@[simp] theorem State.setRes0_res0 (s : State) (v : Word) : (s.setRes0 v).res0 = v := rfl
@[simp] theorem State.setRes0_res1 (s : State) (v : Word) : (s.setRes0 v).res1 = s.res1 := rfl
@[simp] theorem State.setRes0_sbox (s : State) (v : Word) : (s.setRes0 v).sbox = s.sbox := rfl
@[simp] theorem State.setRes0_ks (s : State) (v : Word) : (s.setRes0 v).ks = s.ks := rfl
@[simp] theorem State.setRes0_kb (s : State) (v : Word) : (s.setRes0 v).kb = s.kb := rfl
@[simp] theorem State.setRes0_maxLevel (s : State) (v : Word) : (s.setRes0 v).maxLevel = s.maxLevel := rfl
@[simp] theorem State.setRes0_inputs (s : State) (v : Word) : (s.setRes0 v).inputs = s.inputs := rfl
@[simp] theorem State.setRes0_hostPc (s : State) (v : Word) : (s.setRes0 v).hostPc = s.hostPc := rfl
@[simp] theorem State.setRes0_observed (s : State) (v : Word) : (s.setRes0 v).observed = s.observed := rfl

@[simp] theorem State.setBlock_status (s : State) (l r : Word) : (s.setBlock l r).status = s.status := rfl
@[simp] theorem State.setBlock_ctxcfg (s : State) (l r : Word) : (s.setBlock l r).ctxcfg = s.ctxcfg := rfl
@[simp] theorem State.setBlock_op0 (s : State) (l r : Word) : (s.setBlock l r).op0 = s.op0 := rfl
@[simp] theorem State.setBlock_op1 (s : State) (l r : Word) : (s.setBlock l r).op1 = s.op1 := rfl
@[simp] theorem State.setBlock_op2 (s : State) (l r : Word) : (s.setBlock l r).op2 = s.op2 := rfl
@[simp] theorem State.setBlock_op3 (s : State) (l r : Word) : (s.setBlock l r).op3 = s.op3 := rfl
@[simp] theorem State.setBlock_res0 (s : State) (l r : Word) : (s.setBlock l r).res0 = r := rfl
@[simp] theorem State.setBlock_res1 (s : State) (l r : Word) : (s.setBlock l r).res1 = l := rfl
@[simp] theorem State.setBlock_sbox (s : State) (l r : Word) : (s.setBlock l r).sbox = s.sbox := rfl
@[simp] theorem State.setBlock_ks (s : State) (l r : Word) : (s.setBlock l r).ks = s.ks := rfl
@[simp] theorem State.setBlock_kb (s : State) (l r : Word) : (s.setBlock l r).kb = s.kb := rfl
@[simp] theorem State.setBlock_maxLevel (s : State) (l r : Word) : (s.setBlock l r).maxLevel = s.maxLevel := rfl
@[simp] theorem State.setBlock_inputs (s : State) (l r : Word) : (s.setBlock l r).inputs = s.inputs := rfl
@[simp] theorem State.setBlock_hostPc (s : State) (l r : Word) : (s.setBlock l r).hostPc = s.hostPc := rfl
@[simp] theorem State.setBlock_observed (s : State) (l r : Word) : (s.setBlock l r).observed = s.observed := rfl

@[simp] theorem State.configure_status (s : State) (size rounds : Nat) (d : Bool) :
    (s.configure size rounds d).status = flagsAfterConfig s.status d := rfl
@[simp] theorem State.configure_ctxcfg (s : State) (size rounds : Nat) (d : Bool) :
    (s.configure size rounds d).ctxcfg = ⟨BitVec.ofNat 16 size, BitVec.ofNat 16 rounds⟩ := rfl
@[simp] theorem State.configure_op0 (s : State) (size rounds : Nat) (d : Bool) :
    (s.configure size rounds d).op0 = s.op0 := rfl
@[simp] theorem State.configure_op1 (s : State) (size rounds : Nat) (d : Bool) :
    (s.configure size rounds d).op1 = s.op1 := rfl
@[simp] theorem State.configure_op2 (s : State) (size rounds : Nat) (d : Bool) :
    (s.configure size rounds d).op2 = s.op2 := rfl
@[simp] theorem State.configure_op3 (s : State) (size rounds : Nat) (d : Bool) :
    (s.configure size rounds d).op3 = s.op3 := rfl
@[simp] theorem State.configure_res0 (s : State) (size rounds : Nat) (d : Bool) :
    (s.configure size rounds d).res0 = s.res0 := rfl
@[simp] theorem State.configure_res1 (s : State) (size rounds : Nat) (d : Bool) :
    (s.configure size rounds d).res1 = s.res1 := rfl
@[simp] theorem State.configure_sbox (s : State) (size rounds : Nat) (d : Bool) :
    (s.configure size rounds d).sbox = s.sbox := rfl
@[simp] theorem State.configure_ks (s : State) (size rounds : Nat) (d : Bool) :
    (s.configure size rounds d).ks = [] := rfl
@[simp] theorem State.configure_kb (s : State) (size rounds : Nat) (d : Bool) :
    (s.configure size rounds d).kb = s.kb := rfl
@[simp] theorem State.configure_maxLevel (s : State) (size rounds : Nat) (d : Bool) :
    (s.configure size rounds d).maxLevel = s.maxLevel := rfl
@[simp] theorem State.configure_inputs (s : State) (size rounds : Nat) (d : Bool) :
    (s.configure size rounds d).inputs = s.inputs := rfl
@[simp] theorem State.configure_hostPc (s : State) (size rounds : Nat) (d : Bool) :
    (s.configure size rounds d).hostPc = s.hostPc := rfl
@[simp] theorem State.configure_observed (s : State) (size rounds : Nat) (d : Bool) :
    (s.configure size rounds d).observed = s.observed := rfl

@[simp] theorem State.loadChunk_status (s : State) (c : Nat) :
    (s.loadChunk c).status = flagsAfterChunk s.status s.ctxcfg.size.toNat c := rfl
@[simp] theorem State.loadChunk_ctxcfg (s : State) (c : Nat) : (s.loadChunk c).ctxcfg = s.ctxcfg := rfl
@[simp] theorem State.loadChunk_op0 (s : State) (c : Nat) : (s.loadChunk c).op0 = s.op0 := rfl
@[simp] theorem State.loadChunk_op1 (s : State) (c : Nat) : (s.loadChunk c).op1 = s.op1 := rfl
@[simp] theorem State.loadChunk_op2 (s : State) (c : Nat) : (s.loadChunk c).op2 = s.op2 := rfl
@[simp] theorem State.loadChunk_op3 (s : State) (c : Nat) : (s.loadChunk c).op3 = s.op3 := rfl
@[simp] theorem State.loadChunk_res0 (s : State) (c : Nat) : (s.loadChunk c).res0 = s.res0 := rfl
@[simp] theorem State.loadChunk_res1 (s : State) (c : Nat) : (s.loadChunk c).res1 = s.res1 := rfl
@[simp] theorem State.loadChunk_sbox (s : State) (c : Nat) : (s.loadChunk c).sbox = s.sbox := rfl
@[simp] theorem State.loadChunk_ks (s : State) (c : Nat) :
    (s.loadChunk c).ks = (scheduleChunk s.status.degen s.ctxcfg.rounds.toNat c (s.ks, s.loadKB)).1 := rfl
@[simp] theorem State.loadChunk_kb (s : State) (c : Nat) :
    (s.loadChunk c).kb = (scheduleChunk s.status.degen s.ctxcfg.rounds.toNat c (s.ks, s.loadKB)).2 := rfl
@[simp] theorem State.loadChunk_maxLevel (s : State) (c : Nat) : (s.loadChunk c).maxLevel = s.maxLevel := rfl
@[simp] theorem State.loadChunk_inputs (s : State) (c : Nat) : (s.loadChunk c).inputs = s.inputs := rfl
@[simp] theorem State.loadChunk_hostPc (s : State) (c : Nat) : (s.loadChunk c).hostPc = s.hostPc := rfl
@[simp] theorem State.loadChunk_observed (s : State) (c : Nat) : (s.loadChunk c).observed = s.observed := rfl

@[simp] theorem State.advance_status (s : State) (rest : List Input) : (s.advance rest).status = s.status := rfl
@[simp] theorem State.advance_ctxcfg (s : State) (rest : List Input) : (s.advance rest).ctxcfg = s.ctxcfg := rfl
@[simp] theorem State.advance_op0 (s : State) (rest : List Input) : (s.advance rest).op0 = s.op0 := rfl
@[simp] theorem State.advance_op1 (s : State) (rest : List Input) : (s.advance rest).op1 = s.op1 := rfl
@[simp] theorem State.advance_op2 (s : State) (rest : List Input) : (s.advance rest).op2 = s.op2 := rfl
@[simp] theorem State.advance_op3 (s : State) (rest : List Input) : (s.advance rest).op3 = s.op3 := rfl
@[simp] theorem State.advance_res0 (s : State) (rest : List Input) : (s.advance rest).res0 = s.res0 := rfl
@[simp] theorem State.advance_res1 (s : State) (rest : List Input) : (s.advance rest).res1 = s.res1 := rfl
@[simp] theorem State.advance_sbox (s : State) (rest : List Input) : (s.advance rest).sbox = s.sbox := rfl
@[simp] theorem State.advance_ks (s : State) (rest : List Input) : (s.advance rest).ks = s.ks := rfl
@[simp] theorem State.advance_kb (s : State) (rest : List Input) : (s.advance rest).kb = s.kb := rfl
@[simp] theorem State.advance_maxLevel (s : State) (rest : List Input) : (s.advance rest).maxLevel = s.maxLevel := rfl
@[simp] theorem State.advance_inputs (s : State) (rest : List Input) : (s.advance rest).inputs = rest := rfl
@[simp] theorem State.advance_hostPc (s : State) (rest : List Input) : (s.advance rest).hostPc = s.hostPc + 1 := rfl
@[simp] theorem State.advance_observed (s : State) (rest : List Input) : (s.advance rest).observed = s.observed := rfl

@[simp] theorem State.observe_status (s : State) (v : Word) : (s.observe v).status = s.status := rfl
@[simp] theorem State.observe_ctxcfg (s : State) (v : Word) : (s.observe v).ctxcfg = s.ctxcfg := rfl
@[simp] theorem State.observe_op0 (s : State) (v : Word) : (s.observe v).op0 = s.op0 := rfl
@[simp] theorem State.observe_op1 (s : State) (v : Word) : (s.observe v).op1 = s.op1 := rfl
@[simp] theorem State.observe_op2 (s : State) (v : Word) : (s.observe v).op2 = s.op2 := rfl
@[simp] theorem State.observe_op3 (s : State) (v : Word) : (s.observe v).op3 = s.op3 := rfl
@[simp] theorem State.observe_res0 (s : State) (v : Word) : (s.observe v).res0 = s.res0 := rfl
@[simp] theorem State.observe_res1 (s : State) (v : Word) : (s.observe v).res1 = s.res1 := rfl
@[simp] theorem State.observe_sbox (s : State) (v : Word) : (s.observe v).sbox = s.sbox := rfl
@[simp] theorem State.observe_ks (s : State) (v : Word) : (s.observe v).ks = s.ks := rfl
@[simp] theorem State.observe_kb (s : State) (v : Word) : (s.observe v).kb = s.kb := rfl
@[simp] theorem State.observe_maxLevel (s : State) (v : Word) : (s.observe v).maxLevel = s.maxLevel := rfl
@[simp] theorem State.observe_inputs (s : State) (v : Word) : (s.observe v).inputs = s.inputs := rfl
@[simp] theorem State.observe_hostPc (s : State) (v : Word) : (s.observe v).hostPc = s.hostPc := rfl
@[simp] theorem State.observe_observed (s : State) (v : Word) : (s.observe v).observed = s.observed ++ [v] := rfl

@[simp] theorem State.hardReset_status (s : State) (rest : List Input) : (s.hardReset rest).status = Status.reset := rfl
@[simp] theorem State.hardReset_ctxcfg (s : State) (rest : List Input) : (s.hardReset rest).ctxcfg = ⟨0, 0⟩ := rfl
@[simp] theorem State.hardReset_op0 (s : State) (rest : List Input) : (s.hardReset rest).op0 = 0 := rfl
@[simp] theorem State.hardReset_op1 (s : State) (rest : List Input) : (s.hardReset rest).op1 = 0 := rfl
@[simp] theorem State.hardReset_op2 (s : State) (rest : List Input) : (s.hardReset rest).op2 = 0 := rfl
@[simp] theorem State.hardReset_op3 (s : State) (rest : List Input) : (s.hardReset rest).op3 = 0 := rfl
@[simp] theorem State.hardReset_res0 (s : State) (rest : List Input) : (s.hardReset rest).res0 = 0 := rfl
@[simp] theorem State.hardReset_res1 (s : State) (rest : List Input) : (s.hardReset rest).res1 = 0 := rfl
@[simp] theorem State.hardReset_sbox (s : State) (rest : List Input) : (s.hardReset rest).sbox = none := rfl
@[simp] theorem State.hardReset_ks (s : State) (rest : List Input) : (s.hardReset rest).ks = [] := rfl
@[simp] theorem State.hardReset_kb (s : State) (rest : List Input) : (s.hardReset rest).kb = ⟨0, 0, 0, 0⟩ := rfl
@[simp] theorem State.hardReset_maxLevel (s : State) (rest : List Input) :
    (s.hardReset rest).maxLevel = s.maxLevel := rfl
@[simp] theorem State.hardReset_inputs (s : State) (rest : List Input) : (s.hardReset rest).inputs = rest := rfl
@[simp] theorem State.hardReset_hostPc (s : State) (rest : List Input) : (s.hardReset rest).hostPc = 0 := rfl
@[simp] theorem State.hardReset_observed (s : State) (rest : List Input) : (s.hardReset rest).observed = [] := rfl

@[simp] theorem flagsAfterBuild_err (f : Status) : (flagsAfterBuild f).err = f.err := rfl
@[simp] theorem flagsAfterBuild_sticky (f : Status) : (flagsAfterBuild f).sticky = f.sticky := rfl
@[simp] theorem flagsAfterBuild_sboxValid (f : Status) : (flagsAfterBuild f).sboxValid = true := rfl
@[simp] theorem flagsAfterBuild_cfgValid (f : Status) : (flagsAfterBuild f).cfgValid = f.cfgValid := rfl
@[simp] theorem flagsAfterBuild_ksValid (f : Status) : (flagsAfterBuild f).ksValid = f.ksValid := rfl
@[simp] theorem flagsAfterBuild_degen (f : Status) : (flagsAfterBuild f).degen = f.degen := rfl
@[simp] theorem flagsAfterBuild_nextChunk (f : Status) : (flagsAfterBuild f).nextChunk = f.nextChunk := rfl

@[simp] theorem flagsAfterConfig_err (f : Status) (d : Bool) : (flagsAfterConfig f d).err = f.err := rfl
@[simp] theorem flagsAfterConfig_sticky (f : Status) (d : Bool) : (flagsAfterConfig f d).sticky = f.sticky := rfl
@[simp] theorem flagsAfterConfig_sboxValid (f : Status) (d : Bool) : (flagsAfterConfig f d).sboxValid = f.sboxValid := rfl
@[simp] theorem flagsAfterConfig_cfgValid (f : Status) (d : Bool) : (flagsAfterConfig f d).cfgValid = true := rfl
@[simp] theorem flagsAfterConfig_ksValid (f : Status) (d : Bool) : (flagsAfterConfig f d).ksValid = false := rfl
@[simp] theorem flagsAfterConfig_degen (f : Status) (d : Bool) : (flagsAfterConfig f d).degen = d := rfl
@[simp] theorem flagsAfterConfig_nextChunk (f : Status) (d : Bool) : (flagsAfterConfig f d).nextChunk = 0 := rfl

@[simp] theorem flagsAfterChunk_err (f : Status) (size c : Nat) : (flagsAfterChunk f size c).err = f.err := rfl
@[simp] theorem flagsAfterChunk_sticky (f : Status) (size c : Nat) : (flagsAfterChunk f size c).sticky = f.sticky := rfl
@[simp] theorem flagsAfterChunk_sboxValid (f : Status) (size c : Nat) : (flagsAfterChunk f size c).sboxValid = f.sboxValid := rfl
@[simp] theorem flagsAfterChunk_cfgValid (f : Status) (size c : Nat) : (flagsAfterChunk f size c).cfgValid = f.cfgValid := rfl
@[simp] theorem flagsAfterChunk_ksValid (f : Status) (size c : Nat) : (flagsAfterChunk f size c).ksValid = ksValidAfterChunk size c f.ksValid := rfl
@[simp] theorem flagsAfterChunk_degen (f : Status) (size c : Nat) : (flagsAfterChunk f size c).degen = f.degen := rfl
@[simp] theorem flagsAfterChunk_nextChunk (f : Status) (size c : Nat) : (flagsAfterChunk f size c).nextChunk = BitVec.ofNat 16 (c + 1) := rfl

end Sys2Proof.Machine
end

