-- ==== Sys2Proof/Laws/Ops.lean ====
section
/-! SUPPORT. What the shared operations do, said once: the key-schedule store and its canonical form, the key buffer, the
substitution tables, and the ends of a command. -/

namespace Sys2Proof.Machine

/-! The ends of a command. -/

theorem failWith_eq (e : ErrCode) (s : State) : failWith e s = .next (s.raise e) := rfl

theorem finish_eq (s : State) : finish s = .next s.done := rfl

theorem failWith_next {e : ErrCode} {s t : State} (h : failWith e s = .next t) : t = s.raise e := by
  injection h with h; exact h.symm

theorem finish_next {s t : State} (h : finish s = .next t) : t = s.done := by
  injection h with h; exact h.symm

/-! The key-schedule store. -/

@[simp] theorem ksFind_nil (r : Nat) : ksFind [] r = none := rfl

@[simp] theorem ksFind_insert_same (ks : KeySchedule) (r : Nat) (sk : Subkey) :
    ksFind (ksInsert ks r sk) r = some sk := by
  induction ks with
  | nil => simp [ksInsert, ksFind]
  | cons head rest ih =>
    obtain ⟨q, x⟩ := head
    unfold ksInsert
    split
    · simp [ksFind]
    · split
      · simp [ksFind]
      · simp [ksFind, *]

@[simp] theorem ksFind_insert_other (ks : KeySchedule) {r p : Nat} (sk : Subkey) (h : r ≠ p) :
    ksFind (ksInsert ks r sk) p = ksFind ks p := by
  induction ks with
  | nil => simp [ksInsert, ksFind, h]
  | cons head rest ih =>
    obtain ⟨q, x⟩ := head
    unfold ksInsert
    split
    · simp [ksFind, h]
    · split
      · next hq => subst hq; simp [ksFind, h]
      · simp [ksFind, ih]

/-- An entry that is found is listed. -/
theorem ksFind_mem {ks : KeySchedule} {r : Nat} {sk : Subkey} (h : ksFind ks r = some sk) : (r, sk) ∈ ks := by
  induction ks with
  | nil => simp at h
  | cons head rest ih =>
    obtain ⟨q, x⟩ := head
    unfold ksFind at h
    split at h
    · next e => subst e; injection h with h; subst h; simp
    · exact List.mem_cons_of_mem _ (ih h)

/-- Every round listed after the head of a canonical store is above it. -/
theorem ksCanonical_cons {q : Nat} {x : Subkey} {rest : KeySchedule} :
    ksCanonical ((q, x) :: rest) = true ↔
      (∀ p y l, rest = (p, y) :: l → q < p) ∧ ksCanonical rest = true := by
  cases rest with
  | nil => simp [ksCanonical]
  | cons head tail =>
    obtain ⟨p, y⟩ := head
    simp [ksCanonical]

theorem ksInsert_head {ks : KeySchedule} {r : Nat} {sk : Subkey} {p : Nat} {y : Subkey} {l : KeySchedule}
    (h : ksInsert ks r sk = (p, y) :: l) : p = r ∨ ∃ z m, ks = (p, z) :: m := by
  cases ks with
  | nil => simp [ksInsert] at h; exact .inl h.1.1.symm
  | cons head rest =>
    obtain ⟨q, x⟩ := head
    unfold ksInsert at h
    split at h
    · simp at h; exact .inl h.1.1.symm
    · split at h
      · simp at h; exact .inl h.1.1.symm
      · simp at h; exact .inr ⟨x, rest, by simp [h.1.1]⟩

/-- Writing a round keeps the store's canonical form. -/
theorem ksInsert_canonical {ks : KeySchedule} (h : ksCanonical ks = true) (r : Nat) (sk : Subkey) :
    ksCanonical (ksInsert ks r sk) = true := by
  induction ks with
  | nil => rfl
  | cons head rest ih =>
    obtain ⟨q, x⟩ := head
    obtain ⟨above, tail⟩ := ksCanonical_cons.mp h
    unfold ksInsert
    split
    · next hlt => exact ksCanonical_cons.mpr ⟨fun p y l e => by simp at e; omega, h⟩
    · split
      · next heq => subst heq; exact ksCanonical_cons.mpr ⟨above, tail⟩
      · refine ksCanonical_cons.mpr ⟨fun p y l e => ?_, ih tail⟩
        obtain rfl | ⟨z, m, e'⟩ := ksInsert_head e
        · omega
        · exact above p z m e'

/-- One round of buildRoundKeys writes the round n + i and no other. -/
theorem buildRound_other (n base : Nat) (acc : KeySchedule × KeyBuffer) {i p : Nat} (h : n + i ≠ p) :
    ksFind (buildRound n base acc i).1 p = ksFind acc.1 p := by
  simp [buildRound, h]

/-- buildRoundKeys keeps the store's canonical form. -/
theorem buildRoundKeys_canonical (n base : Nat) {acc : KeySchedule × KeyBuffer} (h : ksCanonical acc.1 = true) :
    ksCanonical (buildRoundKeys n base acc).1 = true := by
  unfold buildRoundKeys
  generalize List.range 8 = l
  induction l generalizing acc with
  | nil => exact h
  | cons i l ih => exact ih (ksInsert_canonical h _ _)

/-- buildRoundKeys leaves every round outside n .. n+7 as it was. -/
theorem buildRoundKeys_other (n base : Nat) (acc : KeySchedule × KeyBuffer) {p : Nat} (h : p < n ∨ n + 8 ≤ p) :
    ksFind (buildRoundKeys n base acc).1 p = ksFind acc.1 p := by
  have key : ∀ l : List Nat, (∀ i ∈ l, i < 8) → ∀ acc : KeySchedule × KeyBuffer,
      ksFind (l.foldl (buildRound n base) acc).1 p = ksFind acc.1 p := by
    intro l
    induction l with
    | nil => intros; rfl
    | cons i l ih =>
      intro hl acc
      have hi : i < 8 := hl i (by simp)
      rw [List.foldl_cons, ih (fun j hj => hl j (by simp [hj])), buildRound_other _ _ _ (by omega)]
  exact key _ (fun i hi => by simpa using hi) acc

/-- KEY.CHUNK's writes keep the store's canonical form. -/
theorem scheduleChunk_canonical (degen : Bool) (rounds c : Nat) {acc : KeySchedule × KeyBuffer}
    (h : ksCanonical acc.1 = true) : ksCanonical (scheduleChunk degen rounds c acc).1 = true := by
  unfold scheduleChunk
  split
  · exact buildRoundKeys_canonical _ _ h
  · exact buildRoundKeys_canonical _ _ (buildRoundKeys_canonical _ _ h)

/-! The key buffer. -/

@[simp] theorem kbGet_kbSet_same {kb : KeyBuffer} {k : Nat} (v : Half) (h : k < 4) : kbGet (kbSet kb k v) k = v := by
  interval_cases k <;> rfl

@[simp] theorem kbGet_kbSet_other {kb : KeyBuffer} {k j : Nat} (v : Half) (hk : k < 4) (hj : j < 4) (h : k ≠ j) :
    kbGet (kbSet kb k v) j = kbGet kb j := by
  interval_cases k <;> interval_cases j <;> first | rfl | exact absurd rfl h

/-! The subkey words. -/

@[simp] theorem subkeyWord_set_same {sk : Subkey} {w : Nat} (v : Word) (h : w < 3) :
    subkeyWord (setSubkeyWord sk w v) w = v := by
  interval_cases w <;> rfl

@[simp] theorem subkeyWord_set_other {sk : Subkey} {w u : Nat} (v : Word) (hw : w < 3) (hu : u < 3) (h : w ≠ u) :
    subkeyWord (setSubkeyWord sk w v) u = subkeyWord sk u := by
  interval_cases w <;> interval_cases u <;> first | rfl | exact absurd rfl h

/-! The substitution tables. -/

/-- A built store reads as the entry formula at every index (42_sbox.md R114). -/
@[simp] theorem sboxLookup_built {t i : Nat} (ht : t < 4) (hi : i < 1024) :
    sboxLookup (some builtTables) t i = sboxEntry t i := by
  simp [sboxLookup, builtTables, ht, hi]

/-- A store with no value reads as a free value (10_state.md R34). -/
@[simp] theorem sboxLookup_none (t i : Nat) : sboxLookup none t i = Config.sboxNoValue t i := rfl

end Sys2Proof.Machine
end

