-- ==== Sys2Proof/Laws/Exec.lean ====
section
/-! SUPPORT. Everything each meaning can do, said once. -/

namespace Sys2Proof.Machine

theorem execGfMul_cases (s : State) :
    (s.gfModulus.getLsbD 8 = false ∧ execGfMul s = .next (s.raise .modulus)) ∨
    (s.gfModulus.getLsbD 8 = true ∧
      execGfMul s = .next (s.setRes0 ((gfMultiply s.gfByte0 s.gfByte1 s.gfModulus).setWidth 32)).done) := by
  unfold execGfMul
  split
  · next h => exact .inl ⟨h, rfl⟩
  · next h => exact .inr ⟨Bool.eq_true_of_not_eq_false h, rfl⟩

theorem execGfExp7_cases (s : State) :
    (s.gfModulus.getLsbD 8 = false ∧ execGfExp7 s = .next (s.raise .modulus)) ∨
    (s.gfModulus.getLsbD 8 = true ∧
      execGfExp7 s = .next (s.setRes0 ((gfExp7 s.gfByte0 s.gfModulus).setWidth 32)).done) := by
  unfold execGfExp7
  split
  · next h => exact .inl ⟨h, rfl⟩
  · next h => exact .inr ⟨Bool.eq_true_of_not_eq_false h, rfl⟩

theorem execSboxRead_cases (t i : Nat) (s : State) :
    (s.status.sboxValid = false ∧ execSboxRead t i s = .next (s.raise .noTables)) ∨
    (s.status.sboxValid = true ∧ execSboxRead t i s = .next (s.setRes0 (s.sboxRead t i)).done) := by
  unfold execSboxRead
  split
  · next h => exact .inl ⟨h, rfl⟩
  · next h => exact .inr ⟨Bool.eq_true_of_not_eq_false h, rfl⟩

theorem execCtxConfig_cases (s : State) :
    (s.level < 1 ∧ execCtxConfig s = .next (s.configure 1 8 true).done) ∨
    ((s.maxLevel : Int) < s.level ∧ execCtxConfig s = .next (s.raise .level)) ∨
    (1 ≤ s.level ∧ s.level ≤ s.maxLevel ∧
      execCtxConfig s = .next (s.configure s.level.toNat (16 * s.level.toNat) false).done) := by
  unfold execCtxConfig
  split
  · exact .inl ⟨‹_›, rfl⟩
  · split
    · exact .inr (.inl ⟨‹_›, rfl⟩)
    · exact .inr (.inr ⟨by omega, by omega, rfl⟩)

theorem execKeyChunk_cases (c : Nat) (s : State) :
    (s.status.cfgValid = false ∧ execKeyChunk c s = .next (s.raise .noContext)) ∨
    (s.status.cfgValid = true ∧ s.chunkOutOfOrder c = true ∧ execKeyChunk c s = .next (s.raise .keySeq)) ∨
    (s.status.cfgValid = true ∧ s.chunkOutOfOrder c = false ∧ execKeyChunk c s = .next (s.loadChunk c).done) := by
  unfold execKeyChunk
  split
  · exact .inl ⟨‹_›, rfl⟩
  · split
    · next hc ho => exact .inr (.inl ⟨Bool.eq_true_of_not_eq_false hc, ho, rfl⟩)
    · next hc ho =>
      exact .inr (.inr ⟨Bool.eq_true_of_not_eq_false hc, Bool.eq_false_of_not_eq_true ho, rfl⟩)

theorem execKsRead_cases (w : Nat) (s : State) :
    (s.status.cfgValid = false ∧ execKsRead w s = .next (s.raise .noContext)) ∨
    (s.status.cfgValid = true ∧ s.status.ksValid = false ∧ execKsRead w s = .next (s.raise .noKey)) ∨
    (s.status.cfgValid = true ∧ s.status.ksValid = true ∧ (s.ctxcfg.rounds.toNat ≤ s.roundIndex ∨ 3 ≤ w) ∧
      execKsRead w s = .next (s.raise .range)) ∨
    (s.status.cfgValid = true ∧ s.status.ksValid = true ∧ s.roundIndex < s.ctxcfg.rounds.toNat ∧ w < 3 ∧
      execKsRead w s = .next (s.setRes0 (s.ksRead s.roundIndex w)).done) := by
  by_cases hc : s.status.cfgValid = false
  · exact .inl ⟨hc, by simp [execKsRead, hc, failWith]⟩
  · have hc' : s.status.cfgValid = true := by simpa using hc
    by_cases hk : s.status.ksValid = false
    · exact .inr (.inl ⟨hc', hk, by simp [execKsRead, hc', hk, failWith]⟩)
    · have hk' : s.status.ksValid = true := by simpa using hk
      by_cases hr : s.ctxcfg.rounds.toNat ≤ s.roundIndex ∨ 3 ≤ w
      · exact .inr (.inr (.inl ⟨hc', hk', hr, by simp only [execKsRead, hc', hk', hr]; rfl⟩))
      · refine .inr (.inr (.inr ⟨hc', hk', by omega, by omega, ?_⟩))
        simp only [execKsRead, hc', hk', hr]; rfl

theorem execRoundF_cases (s : State) :
    (s.status.sboxValid = false ∧ execRoundF s = .next (s.raise .noTables)) ∨
    (s.status.sboxValid = true ∧ execRoundF s =
      .next (s.setRes0 (roundFunction s.sbox s.op0 s.roundKey0 s.roundKey1 s.roundKey2)).done) := by
  unfold execRoundF
  split
  · next h => exact .inl ⟨h, rfl⟩
  · next h => exact .inr ⟨Bool.eq_true_of_not_eq_false h, rfl⟩

/-- ENCRYPT and DECRYPT share their checks and their output. -/
theorem blockCommand_cases (s : State) (out : Halves) :
    (s.status.cfgValid = false ∧ blockCommand s out = .next (s.raise .noContext)) ∨
    (s.status.cfgValid = true ∧ s.status.ksValid = false ∧ blockCommand s out = .next (s.raise .noKey)) ∨
    (s.status.cfgValid = true ∧ s.status.ksValid = true ∧ s.status.sboxValid = false ∧
      blockCommand s out = .next (s.raise .noTables)) ∨
    (s.status.cfgValid = true ∧ s.status.ksValid = true ∧ s.status.sboxValid = true ∧
      blockCommand s out = .next (s.setBlock out.left out.right).done) := by
  unfold blockCommand
  cases s.status.cfgValid <;> cases s.status.ksValid <;> cases s.status.sboxValid <;> simp [failWith, finish]

/-- A CMD write of a legal word runs its command (30_encoding.md R77). -/
theorem runCommand_ok {w : Word} {i : Instr} (h : decode w = .ok i) (s : State) : runCommand w s = exec i s := by
  simp [runCommand, h]

/-- A CMD write of an illegal word raises E_ILLEGAL (30_encoding.md R76). -/
theorem runCommand_error {w : Word} {e : DecodeError} (h : decode w = .error e) (s : State) :
    runCommand w s = .next (s.raise .illegal) := by
  simp [runCommand, h, failWith]

/-- The round function of a block command takes KS[r][0], KS[r][1], KS[r][2] in that order (45_feistel.md R171). -/
theorem scheduledRound_eq (s : State) (r : Nat) (p : Word) :
    scheduledRound s r p = roundFunction s.sbox p
      ((s.ksRead r 0).extractLsb' 0 20) ((s.ksRead r 1).extractLsb' 0 20) ((s.ksRead r 2).extractLsb' 0 20) := by
  have low : ∀ v : Word, v.setWidth 20 = v.extractLsb' 0 20 := fun v => by ext b hb; simp
  simp only [scheduledRound, low]

/-- A pass of the Feistel loops, undone by the pass that exchanges the halves and the two rounds (45_feistel.md R176). -/
theorem feistelPass_undo (f : Nat → Word → Word) (i j : Nat) (h : Halves) :
    feistelPass f j i ⟨(feistelPass f i j h).right, (feistelPass f i j h).left⟩ = ⟨h.right, h.left⟩ := by
  simp [feistelPass]

end Sys2Proof.Machine
end

