-- ==== Sys2Proof/Laws/KeySched.lean ====
section
/-! SUPPORT. The key scheduler's loops, said once: what each shift, each group of four bits, each round and each group of
eight rounds does to the buffer and the subkey words (43_keysched.md R131, R137, R138), and which rounds of the store it
writes. -/

namespace Sys2Proof.Machine

/-- The bits of a shifted key-buffer word. -/
theorem kbShift_getLsbD (v : Half) (k : Nat) :
    (kbShift v).getLsbD k = if k = 15 then !v.getLsbD 0 else v.getLsbD (k + 1) := by
  by_cases h : k = 15
  · subst h; simp [kbShift]
  · by_cases hk : k < 15
    · simp [kbShift, h, hk, Nat.add_comm]
    · have : v.getLsbD (k + 1) = false := BitVec.getLsbD_of_ge _ _ (by omega)
      have h' : (kbShift v).getLsbD k = false := BitVec.getLsbD_of_ge _ _ (by omega)
      simp [h, h', this]

/-- After s shifts a word's bit k is the bit its feedback register yields at shift s + k (43_keysched.md R138). -/
theorem kbShift_iterate (v : Half) (s : Nat) : ∀ k : Nat, k < 16 → (kbShift^[s] v).getLsbD k = fsrBit v (s + k) := by
  induction s with
  | zero =>
    intro k hk
    simp [fsrBit, Nat.mod_eq_of_lt hk, Nat.div_eq_of_lt hk]
  | succ s ih =>
    intro k hk
    rw [Function.iterate_succ_apply', kbShift_getLsbD]
    split
    · next h =>
      subst h
      rw [ih 0 (by decide)]
      have hm : (s + 1 + 15) % 16 = s % 16 := by omega
      have hd : (s + 1 + 15) / 16 = s / 16 + 1 := by omega
      simp only [fsrBit, hm, hd, Nat.add_zero]
      rcases Nat.mod_two_eq_zero_or_one (s / 16) with h | h
      · simp [h, Nat.add_mod]
      · simp [h, Nat.add_mod]
    · next h =>
      rw [ih (k + 1) (by omega)]
      congr 1
      omega

/-- The key buffer with each of its four words shifted s times. -/
def shiftAll (s : Nat) (kb : KeyBuffer) : KeyBuffer :=
  ⟨kbShift^[s] kb.kb0, kbShift^[s] kb.kb1, kbShift^[s] kb.kb2, kbShift^[s] kb.kb3⟩

@[simp] theorem shiftAll_zero (kb : KeyBuffer) : shiftAll 0 kb = kb := rfl

theorem shiftAll_add (s r : Nat) (kb : KeyBuffer) : shiftAll s (shiftAll r kb) = shiftAll (s + r) kb := by
  simp [shiftAll, Function.iterate_add_apply]

@[simp] theorem kbGet_shiftAll (s : Nat) (kb : KeyBuffer) (k : Nat) : kbGet (shiftAll s kb) k = kbShift^[s] (kbGet kb k) := by
  unfold kbGet
  split <;> rfl

/-- The bit a word of the buffer yields once the buffer has been shifted s times. -/
def keyBit (kb : KeyBuffer) (s idx : Nat) : Bool := fsrBit (kbGet kb idx) s

theorem kbGet_shiftAll_bit (s : Nat) (kb : KeyBuffer) (k : Nat) :
    (kbGet (shiftAll s kb) k).getLsbD 0 = keyBit kb s k := by
  rw [kbGet_shiftAll, kbShift_iterate _ _ _ (by decide)]; rfl

/-- Four bits appended to a subkey word. -/
def appendFour (v : Word) (a b c d : Bool) : Word := appendBit (appendBit (appendBit (appendBit v a) b) c) d

/-- What j's four bits do: every word of the buffer shifts once, and the four bits go to subkey word j % 3. -/
theorem takeFourBits_eq (kr j : Nat) (sk : Subkey) (kb : KeyBuffer) :
    takeFourBits kr (sk, kb) j =
      (setSubkeyWord sk (j % 3) (appendFour (subkeyWord sk (j % 3))
        ((kbGet kb (kr % 4)).getLsbD 0) ((kbGet kb ((kr + 1) % 4)).getLsbD 0)
        ((kbGet kb ((kr + 2) % 4)).getLsbD 0) ((kbGet kb ((kr + 3) % 4)).getLsbD 0)),
       shiftAll 1 kb) := by
  have hj : j % 3 < 3 := Nat.mod_lt _ (by decide)
  have hk : kr % 4 < 4 := Nat.mod_lt _ (by decide)
  rw [show (kr + 1) % 4 = (kr % 4 + 1) % 4 by omega, show (kr + 2) % 4 = (kr % 4 + 2) % 4 by omega,
    show (kr + 3) % 4 = (kr % 4 + 3) % 4 by omega]
  simp only [takeFourBits, List.range, List.range.loop, List.foldl, takeBit, Nat.add_zero]
  rw [show (kr + 1) % 4 = (kr % 4 + 1) % 4 by omega, show (kr + 2) % 4 = (kr % 4 + 2) % 4 by omega,
    show (kr + 3) % 4 = (kr % 4 + 3) % 4 by omega]
  generalize kr % 4 = q at hk
  generalize j % 3 = w at hj
  interval_cases q <;> interval_cases w <;> rfl

/-- The same from the buffer shifted s times. -/
theorem takeFourBits_shiftAll (kr j s : Nat) (sk : Subkey) (kb : KeyBuffer) :
    takeFourBits kr (sk, shiftAll s kb) j =
      (setSubkeyWord sk (j % 3) (appendFour (subkeyWord sk (j % 3)) (keyBit kb s (kr % 4)) (keyBit kb s ((kr + 1) % 4))
        (keyBit kb s ((kr + 2) % 4)) (keyBit kb s ((kr + 3) % 4))), shiftAll (s + 1) kb) := by
  rw [takeFourBits_eq, shiftAll_add, Nat.add_comm 1 s]
  simp only [kbGet_shiftAll_bit]

/-- The bits of a word with one bit appended. -/
theorem appendBit_getLsbD (v : Word) (bit : Bool) (b : Nat) (h : b < 32) :
    (appendBit v bit).getLsbD b = if b = 0 then bit else v.getLsbD (b - 1) := by
  by_cases hb : b = 0
  · subst hb; simp [appendBit]
  · simp [appendBit, hb, h, show ¬b < 1 by omega, BitVec.getLsbD_eq_getElem (show b - 1 < 32 by omega)]

/-- A subkey word made of five groups of four bits, the first bit uppermost. -/
theorem fiveGroups_getLsbD (f : Nat → Nat → Bool) (b : Nat) (hb : b < 32) :
    (appendFour (appendFour (appendFour (appendFour (appendFour 0 (f 0 0) (f 0 1) (f 0 2) (f 0 3))
      (f 1 0) (f 1 1) (f 1 2) (f 1 3)) (f 2 0) (f 2 1) (f 2 2) (f 2 3)) (f 3 0) (f 3 1) (f 3 2) (f 3 3))
      (f 4 0) (f 4 1) (f 4 2) (f 4 3)).getLsbD b = (decide (b < 20) && f ((19 - b) / 4) ((19 - b) % 4)) := by
  have bits : ∀ (v : Word) (bit : Bool) (k : Nat), (appendBit v bit).getLsbD (k + 1) = (decide (k < 31) && v.getLsbD k) := by
    intro v bit k
    by_cases hk : k < 31
    · rw [appendBit_getLsbD _ _ _ (by omega)]; simp [hk]
    · simp only [hk, decide_false, Bool.false_and]; exact BitVec.getLsbD_of_ge _ _ (by omega)
  have last : ∀ (v : Word) (bit : Bool), (appendBit v bit).getLsbD 0 = bit :=
    fun v bit => appendBit_getLsbD v bit 0 (by decide)
  simp only [appendFour]
  interval_cases b <;> simp only [bits, last] <;> rfl

/-- Every bit a round takes, and the buffer it leaves (43_keysched.md R138). -/
theorem roundSubkey_eq (kr : Nat) (kb : KeyBuffer) :
    (roundSubkey kr kb).2 = shiftAll 15 kb ∧
    ∀ w b : Nat, w < 3 → b < 32 → (subkeyWord (roundSubkey kr kb).1 w).getLsbD b =
      (decide (b < 20) && keyBit kb (w + 3 * ((19 - b) / 4)) ((kr + (19 - b) % 4) % 4)) := by
  have run : roundSubkey kr kb = (List.range 15).foldl (takeFourBits kr) (⟨0, 0, 0⟩, shiftAll 0 kb) := rfl
  simp only [List.range, List.range.loop, List.foldl, takeFourBits_shiftAll] at run
  rw [run]
  refine ⟨rfl, fun w b hw hb => ?_⟩
  refine Eq.trans ?_ (fiveGroups_getLsbD (fun g k => keyBit kb (w + 3 * g) ((kr + k) % 4)) b hb)
  interval_cases w <;> rfl

/-- Shifts add up. -/
theorem keyBit_shiftAll (s r idx : Nat) (kb : KeyBuffer) : keyBit (shiftAll s kb) r idx = keyBit kb (s + r) idx := by
  rw [← kbGet_shiftAll_bit, shiftAll_add, kbGet_shiftAll_bit, Nat.add_comm]

/-- What eight rounds do: the buffer shifts 120 times, and round n + i holds the subkey of the buffer at its turn. -/
theorem buildRoundKeys_eq (n base s : Nat) (ks : KeySchedule) (kb : KeyBuffer) :
    (buildRoundKeys n base (ks, shiftAll s kb)).2 = shiftAll (s + 120) kb ∧
    ∀ i : Nat, i < 8 → ksFind (buildRoundKeys n base (ks, shiftAll s kb)).1 (n + i) =
      some (roundSubkey (rot (base + i)) (shiftAll (s + 15 * i) kb)).1 := by
  have key : ∀ m : Nat, m ≤ 8 →
      ((List.range m).foldl (buildRound n base) (ks, shiftAll s kb)).2 = shiftAll (s + 15 * m) kb ∧
      ∀ i : Nat, i < m → ksFind ((List.range m).foldl (buildRound n base) (ks, shiftAll s kb)).1 (n + i) =
        some (roundSubkey (rot (base + i)) (shiftAll (s + 15 * i) kb)).1 := by
    intro m
    induction m with
    | zero => intro _; exact ⟨rfl, fun i hi => absurd hi (by omega)⟩
    | succ m ih =>
      intro hm
      obtain ⟨buf, entries⟩ := ih (by omega)
      rw [List.range_succ, List.foldl_append, List.foldl_cons, List.foldl_nil]
      refine ⟨?_, fun i hi => ?_⟩
      · show (roundSubkey _ _).2 = _
        rw [buf, (roundSubkey_eq _ _).1, shiftAll_add]
        congr 1; omega
      · by_cases h : i = m
        · subst h
          show ksFind (ksInsert _ _ _) _ = _
          rw [ksFind_insert_same, buf]
        · rw [buildRound_other _ _ _ (by omega)]
          exact entries i (by omega)
  exact key 8 (by decide)

/-- The bits of the round n + i, counted from the buffer at its load (43_keysched.md R138). -/
theorem roundSubkey_getLsbD (kr s : Nat) (kb : KeyBuffer) {w b : Nat} (hw : w < 3) (hb : b < 32) :
    (subkeyWord (roundSubkey kr (shiftAll s kb)).1 w).getLsbD b =
      (decide (b < 20) && keyBit kb (s + (w + 3 * ((19 - b) / 4))) ((kr + (19 - b) % 4) % 4)) := by
  rw [(roundSubkey_eq _ _).2 w b hw hb, keyBit_shiftAll]

/-- A property of every entry that eight rounds write, kept by the whole store. -/
theorem buildRoundKeys_entries {P : Nat → Subkey → Prop} {n base : Nat} {acc : KeySchedule × KeyBuffer}
    (new : ∀ i kb, i < 8 → P (n + i) (roundSubkey (rot (base + i)) kb).1)
    (old : ∀ r sk, ksFind acc.1 r = some sk → P r sk) :
    ∀ r sk, ksFind (buildRoundKeys n base acc).1 r = some sk → P r sk := by
  have key : ∀ l : List Nat, (∀ i ∈ l, i < 8) → ∀ acc : KeySchedule × KeyBuffer,
      (∀ r sk, ksFind acc.1 r = some sk → P r sk) →
      ∀ r sk, ksFind (l.foldl (buildRound n base) acc).1 r = some sk → P r sk := by
    intro l
    induction l with
    | nil => intro _ acc h; exact h
    | cons i l ih =>
      intro hl acc h
      refine ih (fun j hj => hl j (by simp [hj])) _ fun r sk hf => ?_
      by_cases e : n + i = r
      · subst e
        simp [buildRound] at hf
        subst hf
        exact new _ _ (hl i (by simp))
      · rw [buildRound_other _ _ _ e] at hf
        exact h _ _ hf
  exact key _ (fun i hi => by simpa using hi) acc old

/-- Eight rounds leave a value in every round that held one. -/
theorem buildRoundKeys_isSome {n base : Nat} {acc : KeySchedule × KeyBuffer} {r : Nat}
    (h : (ksFind acc.1 r).isSome = true) : (ksFind (buildRoundKeys n base acc).1 r).isSome = true := by
  unfold buildRoundKeys
  generalize List.range 8 = l
  induction l generalizing acc with
  | nil => exact h
  | cons i l ih =>
    refine ih ?_
    by_cases e : n + i = r
    · subst e; simp [buildRound]
    · rw [buildRound_other _ _ _ e]; exact h

/-- Eight rounds from n leave a value in each of n .. n+7. -/
theorem buildRoundKeys_written {n base : Nat} {acc : KeySchedule × KeyBuffer} {r : Nat} (low : n ≤ r) (high : r < n + 8) :
    (ksFind (buildRoundKeys n base acc).1 r).isSome = true := by
  have e := (buildRoundKeys_eq n base 0 acc.1 acc.2).2 (r - n) (by omega)
  rw [shiftAll_zero, show n + (r - n) = r by omega] at e
  exact e ▸ rfl

end Sys2Proof.Machine
end

