-- ==== Sys2Proof/Laws/PerInstr.lean ====
section
/-! SUPPORT. Statements made instruction by instruction. -/

namespace Sys2Proof.Laws

/-- OPC of each command (30_encoding.md R75). -/
def opcodeOf : Instr → BitVec 8
  | .nop => 0x00
  | .gfMul => 0x01
  | .gfExp7 => 0x02
  | .scatter => 0x03
  | .sboxBuild => 0x04
  | .sboxRead _ _ => 0x05
  | .ctxConfig => 0x06
  | .keyChunk _ => 0x07
  | .ksRead _ => 0x08
  | .roundF => 0x09
  | .encrypt => 0x0A
  | .decrypt => 0x0B

/-- The bits of a command word (30_encoding.md R70). -/
theorem commandWord_getLsbD (arg : BitVec 16) (opc : BitVec 8) (k : Nat) :
    (commandWord arg opc).getLsbD k =
      if k < 8 then opc.getLsbD k else if k < 16 then false else arg.getLsbD (k - 16) := by
  have low : (0#8 ++ opc).getLsbD k = if k < 8 then opc.getLsbD k else false := by
    rw [BitVec.getLsbD_append]; simp
  refine (BitVec.getLsbD_append (x := arg) (y := 0#8 ++ opc) (i := k)).trans ?_
  rw [low]
  by_cases h : k < 8
  · simp [h, show k < 16 by omega]
  · simp [h]

/-- The fields of a command word, whatever its ARG. -/
theorem commandWord_fields (arg : BitVec 16) (opc : BitVec 8) :
    opcField (commandWord arg opc) = opc ∧ rsvField (commandWord arg opc) = 0 ∧ argField (commandWord arg opc) = arg := by
  refine ⟨?_, ?_, ?_⟩
  · ext k hk
    simp [opcField, commandWord_getLsbD, hk]
  · ext k hk
    simp [rsvField, commandWord_getLsbD, show 8 + k < 16 by omega]
  · ext k hk
    simp [argField, commandWord_getLsbD, hk, show ¬16 + k < 8 by omega]

namespace FixedFields

/-- The encoder writes OPC as 30_encoding.md R75 assigns it and RSV = 0 (R70), whatever the arguments. -/
def Statement (i : Instr) : Prop := opcField (encode i) = opcodeOf i ∧ rsvField (encode i) = 0

theorem nop : Statement .nop := ⟨(commandWord_fields _ _).1, (commandWord_fields _ _).2.1⟩
theorem gfMul : Statement .gfMul := ⟨(commandWord_fields _ _).1, (commandWord_fields _ _).2.1⟩
theorem gfExp7 : Statement .gfExp7 := ⟨(commandWord_fields _ _).1, (commandWord_fields _ _).2.1⟩
theorem scatter : Statement .scatter := ⟨(commandWord_fields _ _).1, (commandWord_fields _ _).2.1⟩
theorem sboxBuild : Statement .sboxBuild := ⟨(commandWord_fields _ _).1, (commandWord_fields _ _).2.1⟩
theorem sboxRead (t i : Nat) : Statement (.sboxRead t i) := ⟨(commandWord_fields _ _).1, (commandWord_fields _ _).2.1⟩
theorem ctxConfig : Statement .ctxConfig := ⟨(commandWord_fields _ _).1, (commandWord_fields _ _).2.1⟩
theorem keyChunk (c : Nat) : Statement (.keyChunk c) := ⟨(commandWord_fields _ _).1, (commandWord_fields _ _).2.1⟩
theorem ksRead (w : Nat) : Statement (.ksRead w) := ⟨(commandWord_fields _ _).1, (commandWord_fields _ _).2.1⟩
theorem roundF : Statement .roundF := ⟨(commandWord_fields _ _).1, (commandWord_fields _ _).2.1⟩
theorem encrypt : Statement .encrypt := ⟨(commandWord_fields _ _).1, (commandWord_fields _ _).2.1⟩
theorem decrypt : Statement .decrypt := ⟨(commandWord_fields _ _).1, (commandWord_fields _ _).2.1⟩

end FixedFields

end Sys2Proof.Laws
end

