-- ==== Sys2Proof/Laws/Step.lean ====
section
/-! SUPPORT. Inversion: everything that a command and a step can do when they answer a next state, said once. -/

namespace Sys2Proof.Machine

/-- The commands that write one result to RES0 when they succeed (10_state.md R22). -/
def oneResult : Instr → Bool
  | .gfMul | .gfExp7 | .scatter | .sboxRead _ _ | .ksRead _ | .roundF => true
  | .nop | .sboxBuild | .ctxConfig | .keyChunk _ | .encrypt | .decrypt => false

/-- The next states a command can answer from s. -/
inductive CommandEffect (s : State) : Instr → State → Prop where
  | failed {i : Instr} {e : ErrCode} (error : e ≠ .success) : CommandEffect s i (s.raise e)
  | nop : CommandEffect s .nop s.done
  | result {i : Instr} (v : Word) (one : oneResult i = true) : CommandEffect s i (s.setRes0 v).done
  | built : CommandEffect s .sboxBuild
      (State.done { s with sbox := some builtTables, status := flagsAfterBuild s.status })
  | degenerate (low : s.level < 1) : CommandEffect s .ctxConfig (s.configure 1 8 true).done
  | configured (low : 1 ≤ s.level) (high : s.level ≤ s.maxLevel) :
      CommandEffect s .ctxConfig (s.configure s.level.toNat (16 * s.level.toNat) false).done
  | loaded {c : Nat} (context : s.status.cfgValid = true) (order : s.chunkOutOfOrder c = false) :
      CommandEffect s (.keyChunk c) (s.loadChunk c).done
  | encrypted (left right : Word) (context : s.status.cfgValid = true) (key : s.status.ksValid = true)
      (tables : s.status.sboxValid = true) : CommandEffect s .encrypt (s.setBlock left right).done
  | decrypted (left right : Word) (context : s.status.cfgValid = true) (key : s.status.ksValid = true)
      (tables : s.status.sboxValid = true) : CommandEffect s .decrypt (s.setBlock left right).done

/-- A next state of exec is one of those effects. -/
theorem exec_effect {i : Instr} {s t : State} (h : exec i s = .next t) : CommandEffect s i t := by
  cases i <;> simp only [exec] at h
  case nop => cases h; exact .nop
  case gfMul =>
    rcases execGfMul_cases s with ⟨_, q⟩ | ⟨_, q⟩ <;> rw [q] at h <;> cases h
    exacts [.failed (by decide), .result _ rfl]
  case gfExp7 =>
    rcases execGfExp7_cases s with ⟨_, q⟩ | ⟨_, q⟩ <;> rw [q] at h <;> cases h
    exacts [.failed (by decide), .result _ rfl]
  case scatter => cases h; exact .result _ rfl
  case sboxBuild => cases h; exact .built
  case sboxRead =>
    rcases execSboxRead_cases _ _ s with ⟨_, q⟩ | ⟨_, q⟩ <;> rw [q] at h <;> cases h
    exacts [.failed (by decide), .result _ rfl]
  case ctxConfig =>
    rcases execCtxConfig_cases s with ⟨a, q⟩ | ⟨_, q⟩ | ⟨a, b, q⟩ <;> rw [q] at h <;> cases h
    exacts [.degenerate a, .failed (by decide), .configured a b]
  case keyChunk =>
    rcases execKeyChunk_cases _ s with ⟨_, q⟩ | ⟨_, _, q⟩ | ⟨a, b, q⟩ <;> rw [q] at h <;> cases h
    exacts [.failed (by decide), .failed (by decide), .loaded a b]
  case ksRead =>
    rcases execKsRead_cases _ s with ⟨_, q⟩ | ⟨_, _, q⟩ | ⟨_, _, _, q⟩ | ⟨_, _, _, _, q⟩ <;> rw [q] at h <;> cases h
    exacts [.failed (by decide), .failed (by decide), .failed (by decide), .result _ rfl]
  case roundF =>
    rcases execRoundF_cases s with ⟨_, q⟩ | ⟨_, q⟩ <;> rw [q] at h <;> cases h
    exacts [.failed (by decide), .result _ rfl]
  case encrypt =>
    unfold execEncrypt at h
    rcases blockCommand_cases s _ with ⟨_, q⟩ | ⟨_, _, q⟩ | ⟨_, _, _, q⟩ | ⟨a, b, c, q⟩ <;> rw [q] at h <;> cases h
    exacts [.failed (by decide), .failed (by decide), .failed (by decide), .encrypted _ _ a b c]
  case decrypt =>
    unfold execDecrypt at h
    rcases blockCommand_cases s _ with ⟨_, q⟩ | ⟨_, _, q⟩ | ⟨_, _, _, q⟩ | ⟨a, b, c, q⟩ <;> rw [q] at h <;> cases h
    exacts [.failed (by decide), .failed (by decide), .failed (by decide), .decrypted _ _ a b c]

/-- The next states a step can answer from s. -/
inductive StepEffect (s : State) : State → Prop where
  | waited (input : s.inputs = []) : StepEffect s s
  | reset {rest : List Input} (input : s.inputs = .reset :: rest) : StepEffect s (s.hardReset rest)
  | read {rest : List Input} {offset bytes : Nat} (input : s.inputs = .read offset bytes :: rest) (v : Word) :
      StepEffect s ((s.advance rest).observe v)
  | op0 {rest : List Input} {bytes : Nat} {v : Word} (input : s.inputs = .write 0x10 bytes v :: rest) :
      StepEffect s { s.advance rest with op0 := v }
  | op1 {rest : List Input} {bytes : Nat} {v : Word} (input : s.inputs = .write 0x14 bytes v :: rest) :
      StepEffect s { s.advance rest with op1 := v }
  | op2 {rest : List Input} {bytes : Nat} {v : Word} (input : s.inputs = .write 0x18 bytes v :: rest) :
      StepEffect s { s.advance rest with op2 := v }
  | op3 {rest : List Input} {bytes : Nat} {v : Word} (input : s.inputs = .write 0x1C bytes v :: rest) :
      StepEffect s { s.advance rest with op3 := v }
  | illegal {rest : List Input} {bytes : Nat} {v : Word} {e : DecodeError}
      (input : s.inputs = .write 0x00 bytes v :: rest) (word : decode v = .error e) :
      StepEffect s ((s.advance rest).raise .illegal)
  | command {rest : List Input} {bytes : Nat} {v : Word} {i : Instr} {t : State}
      (input : s.inputs = .write 0x00 bytes v :: rest) (word : decode v = .ok i)
      (effect : exec i (s.advance rest) = .next t) : StepEffect s t

/-- The offset of the register an access reaches. -/
theorem accessReg_offset {offset bytes : Nat} {r : WindowReg} (h : accessReg offset bytes = .ok r) :
    offset = regOffset r ∧ bytes = 4 := by
  unfold accessReg at h
  split at h
  · cases h
  · next hb =>
    split at h
    · cases h
    · split at h
      · next q hq =>
        cases h
        refine ⟨?_, by omega⟩
        unfold regAt at hq
        split at hq <;> cases hq <;> rfl
      · cases h

/-- A next state of step is one of those effects. -/
theorem step_effect {s t : State} (h : step s = .next t) : StepEffect s t := by
  unfold step at h
  split at h
  · next input => cases h; exact .waited input
  · next input => cases h; exact .reset input
  · next input =>
    unfold hostRead at h
    split at h <;> cases h
    exact .read input _
  · next offset bytes v rest input =>
    unfold hostWrite at h
    split at h
    · next r hr =>
      obtain ⟨rfl, rfl⟩ := accessReg_offset hr
      cases r <;> simp only [regWrite] at h
      case cmd =>
        rcases hd : decode v with e | i
        · rw [runCommand_error hd] at h; cases h; exact .illegal input hd
        · rw [runCommand_ok hd] at h; exact .command input hd h
      case op0 => cases h; exact .op0 input
      case op1 => cases h; exact .op1 input
      case op2 => cases h; exact .op2 input
      case op3 => cases h; exact .op3 input
      all_goals cases h
    · cases h

end Sys2Proof.Machine
end

