-- ==== Sys2Proof/Laws/Tables.lean ====
section
/-! SUPPORT. The sums over a table depend on its 1024 entries only, so those of the built tables are those of the entry
formula (42_sbox.md R114, R117). -/

namespace Sys2Proof.Machine

/-- A fold over the indices of a table reads nothing but its entries. -/
theorem tableFold_congr (op : Word → Nat → Word → Word) {f g : Nat → Word} (h : ∀ i, i < 1024 → f i = g i) (a : Word) :
    (List.range 1024).foldl (fun acc i => op acc i (f i)) a =
      (List.range 1024).foldl (fun acc i => op acc i (g i)) a := by
  have key : ∀ l : List Nat, (∀ i ∈ l, i < 1024) → ∀ a : Word,
      l.foldl (fun acc i => op acc i (f i)) a = l.foldl (fun acc i => op acc i (g i)) a := by
    intro l
    induction l with
    | nil => intros; rfl
    | cons i l ih =>
      intro hl a
      rw [List.foldl_cons, List.foldl_cons, h i (hl i (by simp))]
      exact ih (fun j hj => hl j (by simp [hj])) _
  exact key _ (fun i hi => by simpa using hi) a

theorem tableXor_congr {f g : Nat → Word} (h : ∀ i, i < 1024 → f i = g i) : tableXor f = tableXor g :=
  tableFold_congr (fun acc _ v => acc ^^^ v) h 0

theorem tableSum_congr {f g : Nat → Word} (h : ∀ i, i < 1024 → f i = g i) : tableSum f = tableSum g :=
  tableFold_congr (fun acc _ v => acc + v) h 0

theorem tableWeightedSum_congr {f g : Nat → Word} (h : ∀ i, i < 1024 → f i = g i) :
    tableWeightedSum f = tableWeightedSum g :=
  tableFold_congr (fun acc i v => acc + BitVec.ofNat 32 (i + 1) * v) h 0

end Sys2Proof.Machine
end

