-- ==== Sys2Proof/Tests/Slice0.lean ====
section
/-! SUPPORT. The model's own tests: ill-formed terms, words written out from the opcode map, the spec's vectors one
command at a time, and a witness for the hypotheses of each statement. Expected values are the spec's; the comment before
each group names the vector. -/

namespace Sys2Proof.Tests

open Sys2Proof Sys2Proof.Machine

/-! ## States -/

/-- The state after reset on an implementation whose MAX_LEVEL is 4, as 95_test_vectors.md assumes. -/
def blank : State := { State.reset with maxLevel := 4 }

/-- `blank` with the operand registers set. -/
def operands (a b c d : Word) : State := { blank with op0 := a, op1 := b, op2 := c, op3 := d }

/-- `blank` with the next access of the host to make. -/
def access (a : Input) : State := { blank with inputs := [a] }

/-- The next state, if there is one. -/
def after : Result → Option State
  | .next s => some s
  | .fault _ => none
  | .refused _ => none

/-- KS of the zero key at level 0 (95_test_vectors.md V-KS0). -/
def zeroSchedule : KeySchedule :=
  [ (0, ⟨0x00000, 0x00000, 0x00000⟩), (1, ⟨0x0ffff, 0xfffff, 0xfffff⟩),
    (2, ⟨0xf0000, 0xf0000, 0x00000⟩), (3, ⟨0x0ffff, 0x0ffff, 0x0ffff⟩),
    (4, ⟨0xff000, 0xf0000, 0xf0000⟩), (5, ⟨0x00fff, 0x00fff, 0x0ffff⟩),
    (6, ⟨0xff000, 0xff000, 0xff000⟩), (7, ⟨0x000ff, 0x00fff, 0x00fff⟩) ]

/-- KS[0..7] of the known-answer key (95_test_vectors.md V-KAT-KS). -/
def katFirst : KeySchedule :=
  [ (0, ⟨0x66827, 0x593e0, 0xe681a⟩), (1, ⟨0xd23ed, 0x33eb1, 0x5c92f⟩),
    (2, ⟨0x556cb, 0x4b924, 0x9928d⟩), (3, ⟨0x0ccbe, 0x55368, 0x78cb7⟩),
    (4, ⟨0x24b92, 0xf9928, 0x556cb⟩), (5, ⟨0x255c9, 0xed23e, 0x033eb⟩),
    (6, ⟨0x8f334, 0x7aac9, 0x48734⟩), (7, ⟨0x27e19, 0xe0997, 0x1aa6c⟩) ]

/-- KS[8..15] of the known-answer key (95_test_vectors.md V-KAT-KS). -/
def katSecond : KeySchedule :=
  [ (8, ⟨0xfbfcd, 0x49910, 0x25961⟩), (9, ⟨0x9b5c3, 0x08064, 0x7ccdf⟩),
    (10, ⟨0xb1664, 0xc8569, 0xfef37⟩), (11, ⟨0x00209, 0x8d337, 0x6e53c⟩),
    (12, ⟨0x8c856, 0xffef3, 0xb1664⟩), (13, ⟨0xc27cc, 0xb9b5c, 0x00806⟩),
    (14, ⟨0x7ffdf, 0xc72cc, 0x191ac⟩), (15, ⟨0xcdcda, 0x10040, 0x61b66⟩) ]

/-- KS[16..23] of the known-answer key (95_test_vectors.md V-KAT-KS). -/
def katThird : KeySchedule :=
  [ (16, ⟨0xc3d83, 0x6464a, 0xdff7f⟩), (17, ⟨0xc8002, 0xc38d3, 0x6e6e5⟩),
    (18, ⟨0x0c8c8, 0x9bffe, 0x96b16⟩), (19, ⟨0x5961b, 0xfcdcd, 0x91004⟩),
    (20, ⟨0x337ff, 0x53c72, 0x09191⟩), (21, ⟨0x7f9b9, 0x33200, 0xa3c27⟩),
    (22, ⟨0xda69e, 0x40323, 0x66eff⟩), (23, ⟨0x16640, 0x85694, 0xef373⟩) ]

/-- KS[24..31] of the known-answer key (95_test_vectors.md V-KAT-KS). -/
def katFourth : KeySchedule :=
  [ (24, ⟨0xedaa3, 0xb12dc, 0x2fcc1⟩), (25, ⟨0x970cc, 0x48553, 0x1b78c⟩),
    (26, ⟨0xd724b, 0x34f99, 0xdb556⟩), (27, ⟨0x681aa, 0x827e1, 0x3e099⟩),
    (28, ⟨0x368f3, 0xcb7aa, 0xbe487⟩), (29, ⟨0xc14ed, 0x36d03, 0xc1255⟩),
    (30, ⟨0x197e5, 0x97d81, 0x6c1f6⟩), (31, ⟨0x56cb0, 0xb924a, 0x928db⟩) ]


/-- NEXT_CHUNK = 0 at level 2: context LOADING(0). -/
def loading0 : State :=
  { blank with status := { blank.status with cfgValid := true }, ctxcfg := ⟨2, 32⟩ }

/-- The known-answer key after its first chunk: context LOADING(1). -/
def loading1 : State :=
  { loading0 with status := { loading0.status with nextChunk := 1 }, ks := katFirst ++ katFourth }

/-- The known-answer key set and the tables built (95_test_vectors.md P3, line 9). -/
def katReady : State :=
  { blank with
    status := { blank.status with cfgValid := true, ksValid := true, sboxValid := true, nextChunk := 2 },
    ctxcfg := ⟨2, 32⟩, sbox := some builtTables, ks := katFirst ++ katSecond ++ katThird ++ katFourth }

/-- The zero key set at level 0 and the tables built (95_test_vectors.md P5, line 3). -/
def zeroReady : State :=
  { blank with
    status := { blank.status with cfgValid := true, ksValid := true, sboxValid := true, degen := true, nextChunk := 1 },
    ctxcfg := ⟨1, 8⟩, sbox := some builtTables, ks := zeroSchedule }

/-- Context LOADING(0) in degenerate mode. -/
def degenLoading : State :=
  { blank with status := { blank.status with cfgValid := true, degen := true }, ctxcfg := ⟨1, 8⟩ }

/-! ## Well-formedness: ill-formed terms are refused -/

theorem test_table_number_too_large : (Instr.sboxRead 4 0).wellFormed = false := by decide
theorem test_table_index_too_large : (Instr.sboxRead 0 1024).wellFormed = false := by decide
theorem test_chunk_index_too_large : (Instr.keyChunk 65536).wellFormed = false := by decide
theorem test_word_select_too_large : (Instr.ksRead 4).wellFormed = false := by decide
theorem test_largest_indices_fit :
    ((Instr.sboxRead 3 1023).wellFormed && (Instr.keyChunk 65535).wellFormed && (Instr.ksRead 3).wellFormed) = true := by
  decide

/-! ## Decoding: words written out from the opcode map of 30_encoding.md R75 -/

theorem test_decode_nop : decodeTableWord 32 0b00000000000000000000000000000000 = some .nop := by decide
theorem test_decode_gf_mul : decodeTableWord 32 0b00000000000000000000000000000001 = some .gfMul := by decide
theorem test_decode_gf_exp7 : decodeTableWord 32 0b00000000000000000000000000000010 = some .gfExp7 := by decide
theorem test_decode_scatter : decodeTableWord 32 0b00000000000000000000000000000011 = some .scatter := by decide
theorem test_decode_sbox_build : decodeTableWord 32 0b00000000000000000000000000000100 = some .sboxBuild := by decide
-- ARG = 0000 tt iiiiiiiiii: t = 2, i = 0b1000000001.
theorem test_decode_sbox_read :
    decodeTableWord 32 0b00001010000000010000000000000101 = some (.sboxRead 2 0x201) := by decide
theorem test_decode_ctx_config : decodeTableWord 32 0b00000000000000000000000000000110 = some .ctxConfig := by decide
-- ARG = cccccccccccccccc: c = 0x8001.
theorem test_decode_key_chunk :
    decodeTableWord 32 0b10000000000000010000000000000111 = some (.keyChunk 0x8001) := by decide
-- ARG = 00000000000000 ww: w = 2.
theorem test_decode_ks_read : decodeTableWord 32 0b00000000000000100000000000001000 = some (.ksRead 2) := by decide
theorem test_decode_round_f : decodeTableWord 32 0b00000000000000000000000000001001 = some .roundF := by decide
theorem test_decode_encrypt : decodeTableWord 32 0b00000000000000000000000000001010 = some .encrypt := by decide
theorem test_decode_decrypt : decodeTableWord 32 0b00000000000000000000000000001011 = some .decrypt := by decide
-- 95_test_vectors.md V-ILL, V-SBOX and V-KS0: the illegal words.
theorem test_decode_illegal_words :
    [0x0000000C, 0x000000FF, 0x00000100, 0x0000FF0A, 0x0001000A, 0x10000005, 0x00000105, 0x00040008, 0x00010001].all
      (fun w => decodeTableWord 32 w == none) = true := by decide
theorem test_decode_largest_chunk : decodeTableWord 32 0xFFFF0007 = some (.keyChunk 65535) := by decide

/-! ## The constant tables (41_scatter.md R102, 93_implementation_defined.md G1) -/

-- The bit position of each PBOX entry, as 41_scatter.md R103's INV has them: PBOX[INV[j]] is bit j.
theorem test_pbox_positions :
    (List.range 32).all (fun j => pbox (scatterSource[j]?.getD 0) == 1#32 <<< j) = true := by decide

/-! ## One command at a time (95_test_vectors.md, section 2) -/

-- V-NOP.
theorem test_nop : (after (runCommand 0x00000000
    { blank with status := { blank.status with err := .illegal, sticky := true } })).map (fun t => statusWord t.status) =
    some 0x00000010 := by decide +kernel
-- V-GF, the row with upper bits, and its first error case.
theorem test_gf_mul : (after (execGfMul (operands 0x12345657 0xABCDEF83 0xFFFFF11B 0))).map State.res0 =
    some 0xC1 := by decide +kernel
theorem test_gf_mul_modulus : (after (execGfMul { operands 1 1 0x0FF 0 with res0 := 0x17 })).map
    (fun t => (statusWord t.status, t.res0)) = some (0x12, 0x17) := by decide +kernel
-- V-EXP7.
theorem test_gf_exp7 : (after (execGfExp7 (operands 0x83 0 0x14D 0))).map State.res0 = some 0x17 := by decide +kernel
theorem test_gf_exp7_reducible : (after (execGfExp7 (operands 0xFF 0 0x100 0))).map State.res0 = some 0x03 := by
  decide +kernel
-- V-SC.
theorem test_scatter : (after (execScatter (operands 0x12345678 0 0 0))).map State.res0 = some 0x056F2360 := by
  decide +kernel
theorem test_scatter_lane : (after (execScatter (operands 0xFF000000 0 0 0))).map State.res0 = some 0x82141842 := by
  decide +kernel
-- V-SBOX: SBOX[1][0x155], SBOX[3][0x3FF].
theorem test_sbox_build : (after (execSboxBuild blank)).map
    (fun t => (statusWord t.status, t.sboxRead 1 0x155, t.sboxRead 3 0x3FF)) =
    some (0x00000100, 0x18020000, 0x40080080) := by decide +kernel
theorem test_sbox_read : (after (execSboxRead 1 0x200 zeroReady)).map State.res0 = some 0x10408014 := by decide +kernel
-- P2 line 1.
theorem test_sbox_read_without_tables : (after (execSboxRead 1 0x200 blank)).map (fun t => statusWord t.status) =
    some 0x00000013 := by decide +kernel
-- CTX.CONFIG vectors of V-KS0: OP0 = 0x80000000 and OP0 = 5.
theorem test_config_degenerate : (after (execCtxConfig (operands 0x80000000 0 0 0))).map
    (fun t => (ctxcfgWord t.ctxcfg, statusWord t.status)) = some (0x00080001, 0x00000A00) := by decide +kernel
theorem test_config_level : (after (execCtxConfig (operands 5 0 0 0))).map
    (fun t => (ctxcfgWord t.ctxcfg, statusWord t.status)) = some (0, 0x00000017) := by decide +kernel
-- V-KAT: chunk 0 writes KS[0..7] and KS[24..31] and leaves KB = 3aab, 6bd0, 2952, e76d.
theorem test_key_chunk : (after (execKeyChunk 0 { loading0 with op0 := 0x1892D6AD, op1 := 0x942FC554 })).map
    (fun t => (t.ks, t.kb, statusWord t.status)) =
    some (katFirst ++ katFourth, ⟨0x3AAB, 0x6BD0, 0x2952, 0xE76D⟩, 0x00010200) := by decide +kernel
-- V-KAT: chunk 1 completes the key.
theorem test_last_key_chunk : (after (execKeyChunk 1 { loading1 with op0 := 0x55F9084D, op1 := 0x9A6393D9 })).map
    (fun t => (t.ks, statusWord t.status)) = some (katReady.ks, 0x00020600) := by decide +kernel
-- P3 line 18, P4 line 15.
theorem test_ks_read : (after (execKsRead 2 { katReady with op0 := 31 })).map State.res0 = some 0x000928DB := by
  decide +kernel
theorem test_ks_read_range : (after (execKsRead 0 { katReady with op0 := 32 })).map (fun t => t.status.err) =
    some .range := by decide +kernel
-- V-F, row 7 with the upper bits of OP1 set (P2 line 9).
theorem test_round_f : (after (execRoundF
    { zeroReady with op0 := 0x12345678, op1 := 0xFFF12345, op2 := 0x6789A, op3 := 0xBCDEF })).map State.res0 =
    some 0xA86A4CFC := by decide +kernel
-- V-KAT.
theorem test_encrypt : (after (execEncrypt { katReady with op0 := 0x68656C6C, op1 := 0x6F20776F })).map
    (fun t => (t.res0, t.res1)) = some (0xFAC37B6A, 0xD9FECA63) := by decide +kernel
-- V-ENC, row 1: the zero block at level 0.
theorem test_encrypt_degenerate : (after (execEncrypt zeroReady)).map (fun t => (t.res0, t.res1)) =
    some (0xAD66BB7A, 0xDFBA4F0E) := by decide +kernel
-- V-KAT.
theorem test_decrypt : (after (execDecrypt { katReady with op0 := 0x0790ABC4, op1 := 0xC86C182F })).map
    (fun t => (t.res0, t.res1)) = some (0x726C6400, 0x00000000) := by decide +kernel
theorem test_decrypt_degenerate : (after (execDecrypt zeroReady)).map (fun t => (t.res0, t.res1)) =
    some (0x997DBCD9, 0x02B88FB2) := by decide +kernel

/-! ## Host accesses and the assembler (95_test_vectors.md P1, P3) -/

theorem test_status_read : (after (step { access (.read 0x04 4) with status := katReady.status })).map State.observed =
    some [0x00020700] := by decide +kernel
theorem test_read_only_write : step (access (.write 0x20 4 0)) = .fault .busReadOnly := rfl
theorem test_first_instruction_after_reset :
    (after (step (State.reset.withFetchWord 32 0x0000000A))).map (fun t => statusWord t.status) = some 0x14 := by
  decide +kernel
-- P3 line 10.
theorem test_assembler_enc8 : assembleText ["enc8 68 65 6C 6C 6F 20 77 6F".toList] =
    some [.write 0x10 4 0x68656C6C, .write 0x14 4 0x6F20776F, .write 0x00 4 0x0000000A] := by decide +kernel
-- P2 line 1, P3 line 18, P5 line 2 and a value out of range (30_encoding.md R78).
theorem test_assembler_lines : assembleText ["sbox.read 1, 0x200 ; table 1".toList, "rd RES0".toList, "config -1".toList] =
    some [.write 0x00 4 0x06000005, .read 0x20 4, .write 0x10 4 0xFFFFFFFF, .write 0x00 4 0x00000006] ∧
    assembleText ["sbox.read 4, 0".toList] = none := by decide +kernel

/-! ## Witnesses: concrete states and operands that meet the hypotheses of each statement

StateInv of the states above, proved field by field. -/

/-- Every entry of a store that a check on its list passes. -/
theorem entries_of_list {ks : KeySchedule} {rounds : Nat}
    (h : ∀ e ∈ ks, e.1 < rounds ∧ e.2.w0.toNat < 2 ^ 20 ∧ e.2.w1.toNat < 2 ^ 20 ∧ e.2.w2.toNat < 2 ^ 20) :
    ∀ r sk, ksFind ks r = some sk → r < rounds ∧ subkeyIs20 sk :=
  fun r sk f => h (r, sk) (ksFind_mem f)

/-- Context NONE. -/
theorem blank_inv : StateInv blank where
  levelRange := by decide
  stickyOfError := by decide
  tablesBuilt := rfl
  noContext := by decide
  degenerate := by decide
  general := by decide
  loading := by decide
  keySet := by decide
  ksForm := rfl
  ksEntries := by intro r sk h; simp [blank, State.reset] at h
  ksLoaded := by intro c r h; simp [blank, State.reset, Status.reset] at h

/-- Context LOADING(0), general mode. -/
theorem loading0_inv : StateInv loading0 where
  levelRange := by decide
  stickyOfError := by decide
  tablesBuilt := rfl
  noContext := by decide
  degenerate := by decide
  general := by decide
  loading := by decide
  keySet := by decide
  ksForm := rfl
  ksEntries := by intro r sk h; simp [loading0, blank, State.reset] at h
  ksLoaded := by intro c r h; simp [loading0, blank, State.reset, Status.reset] at h

/-- Context LOADING(0), degenerate mode. -/
theorem degenLoading_inv : StateInv degenLoading where
  levelRange := by decide
  stickyOfError := by decide
  tablesBuilt := rfl
  noContext := by decide
  degenerate := by decide
  general := by decide
  loading := by decide
  keySet := by decide
  ksForm := rfl
  ksEntries := by intro r sk h; simp [degenLoading, blank, State.reset] at h
  ksLoaded := by intro c r h; simp [degenLoading, blank, State.reset, Status.reset] at h

/-- Context LOADING(1), general mode. -/
theorem loading1_inv : StateInv loading1 where
  levelRange := by decide
  stickyOfError := by decide
  tablesBuilt := rfl
  noContext := by decide
  degenerate := by decide
  general := by decide
  loading := by decide
  keySet := by decide
  ksForm := by decide
  ksEntries := entries_of_list (by decide)
  ksLoaded := by
    intro c r hc hr
    have hc : c < 1 := hc
    obtain rfl : c = 0 := by omega
    have hr : (8 * 0 ≤ r ∧ r < 8 * 0 + 8) ∨ (32 - 8 - 8 * 0 ≤ r ∧ r < 32 - 8 - 8 * 0 + 8) := hr
    have all : ∀ r < 8, (ksFind loading1.ks r).isSome = true ∧ (ksFind loading1.ks (r + 24)).isSome = true := by decide
    rcases hr with h | h
    · exact (all r (by omega)).1
    · have := (all (r - 24) (by omega)).2
      rwa [show r - 24 + 24 = r by omega] at this

/-- Context SET, degenerate mode, tables built. -/
theorem zeroReady_inv : StateInv zeroReady where
  levelRange := by decide
  stickyOfError := by decide
  tablesBuilt := rfl
  noContext := by decide
  degenerate := by decide
  general := by decide
  loading := by decide
  keySet := by decide
  ksForm := by decide
  ksEntries := entries_of_list (by decide)
  ksLoaded := by
    intro c r _ hr
    have all : ∀ r < 8, (ksFind zeroReady.ks r).isSome = true := by decide
    exact all r hr

/-- Context SET, general mode, tables built. -/
theorem katReady_inv : StateInv katReady where
  levelRange := by decide
  stickyOfError := by decide
  tablesBuilt := rfl
  noContext := by decide
  degenerate := by decide
  general := by decide
  loading := by decide
  keySet := by decide
  ksForm := by decide
  ksEntries := entries_of_list (by decide)
  ksLoaded := by
    intro c r hc hr
    have hc : c < 2 := hc
    have hr : (8 * c ≤ r ∧ r < 8 * c + 8) ∨ (32 - 8 - 8 * c ≤ r ∧ r < 32 - 8 - 8 * c + 8) := hr
    have all : ∀ r < 32, (ksFind katReady.ks r).isSome = true := by decide
    exact all r (by omega)

/-! Encoding. -/

theorem witness_DecodeOfEncodeIsTheCommand : (Instr.sboxRead 3 1023).wellFormed = true ∧
    (Instr.keyChunk 65535).wellFormed = true ∧ (Instr.ksRead 3).wellFormed = true := by decide
theorem witness_EncodeOfDecodeIsTheWord : decode 0x0FFF0005 = .ok (.sboxRead 3 1023) := rfl
theorem witness_OpcodeMapAgreesWithDecoder :
    decode 0x00030008 = .ok (.ksRead 3) ∧ decode 0x00040008 = .error .argNotZero := ⟨rfl, rfl⟩
/-- One word at the edge of each of R76's five cases, and the last legal word. -/
theorem witness_ReservedWordsRaiseIllegalAndNothingElse :
    (0x0000000C#32).extractLsb' 0 8 = 0x0C ∧ (0x00000100#32).extractLsb' 8 8 ≠ 0 ∧
    ((0x0001000B#32).extractLsb' 0 8 = 0x0B ∧ (0x0001000B#32).extractLsb' 16 16 ≠ 0) ∧
    ((0x10000005#32).extractLsb' 0 8 = 0x05 ∧ (0x10000005#32).extractLsb' 28 4 ≠ 0) ∧
    ((0x00040008#32).extractLsb' 0 8 = 0x08 ∧ (0x00040008#32).extractLsb' 18 14 ≠ 0) ∧
    decode 0xFFFF0007 = .ok (.keyChunk 65535) := by decide
theorem witness_NonzeroRsvIsIllegalWhateverTheOpcode : (0x0000FF0A#32).extractLsb' 8 8 ≠ 0 := by decide

/-! Host accesses. -/

theorem witness_StepRunsTheDecodedCommand :
    ((access (.write 0x00 4 0x0000000A)).inputs = [.write 0x00 4 0x0000000A] ∧ decode 0x0000000A = .ok .encrypt) ∧
    ((access (.write 0x00 4 0x0000000C)).inputs = [.write 0x00 4 0x0000000C] ∧
      decode 0x0000000C = .error .reservedOpcode) := ⟨⟨rfl, rfl⟩, rfl, rfl⟩
theorem witness_ReadReturnsTheRegisterAndChangesNothing :
    (access (.read 0x04 4)).inputs = [.read 0x04 4] ∧ (access (.read 0x24 4)).inputs = [.read 0x24 4] := ⟨rfl, rfl⟩
theorem witness_OperandWriteSetsThatRegisterOnly :
    (access (.write 0x10 4 1)).inputs = [.write 0x10 4 1] ∧ (access (.write 0x14 4 1)).inputs = [.write 0x14 4 1] ∧
    (access (.write 0x18 4 1)).inputs = [.write 0x18 4 1] ∧ (access (.write 0x1C 4 1)).inputs = [.write 0x1C 4 1] :=
  ⟨rfl, rfl, rfl, rfl⟩
/-- The last register, the first unmapped offset after it, a misaligned and a narrow read; a writable and a read-only
register. -/
theorem witness_AccessFaultsExactlyWhenABusError :
    (after (step (access (.read 0x24 4)))).isSome = true ∧ step (access (.read 0x28 4)) = .fault .busUnmapped ∧
    step (access (.read 0x22 4)) = .fault .busMisaligned ∧ step (access (.read 0x24 2)) = .fault .busWidth ∧
    (after (step (access (.write 0x1C 4 0)))).isSome = true ∧ step (access (.write 0x20 4 0)) = .fault .busReadOnly ∧
    step (access (.read 0x00 4)) = .fault .busWriteOnly := ⟨rfl, rfl, rfl, rfl, rfl, rfl, rfl⟩
/-- The first and the last byte of the window. -/
theorem witness_WindowStandsAtAnAlignedBase :
    windowOffset Config.iceBase = some 0 ∧ windowOffset (Config.iceBase + 63) = some 63 ∧
    windowOffset (Config.iceBase + 64) = none := by
  refine ⟨?_, ?_, ?_⟩ <;> simp [windowOffset]
theorem witness_ResetLeavesTheDocumentedState : (access .reset).inputs = [.reset] := rfl
theorem witness_NothingHappensWithoutAnInput : blank.inputs = [] := rfl

/-! Errors. -/

/-- One state for each check of R205, and the levels on both sides of MAX_LEVEL. -/
theorem witness_FirstFailingCheckIsReported :
    decode 0x0000000C = .error .reservedOpcode ∧ decode 0x0000000A = .ok .encrypt ∧
    firstError .encrypt blank = some .noContext ∧ firstError .encrypt loading1 = some .noKey ∧
    firstError .encrypt { katReady with status := { katReady.status with sboxValid := false } } = some .noTables ∧
    firstError .gfMul (operands 1 1 0x0FF 0) = some .modulus ∧ firstError .ctxConfig (operands 5 0 0 0) = some .level ∧
    firstError .ctxConfig (operands 4 0 0 0) = none ∧ firstError (.keyChunk 1) loading0 = some .keySeq ∧
    firstError (.keyChunk 2) loading1 = some .keySeq ∧ firstError (.ksRead 0) { katReady with op0 := 32 } = some .range ∧
    firstError (.ksRead 3) katReady = some .range ∧ katReady.status.ksValid = true := by decide
theorem witness_CommandSucceedsWhenNoCheckFails :
    firstError .encrypt katReady = none ∧ firstError .decrypt zeroReady = none ∧
    firstError .gfMul (operands 1 1 0x100 0) = none ∧ firstError .ctxConfig (operands 4 0 0 0) = none ∧
    firstError (.keyChunk 1) loading1 = none ∧ firstError (.ksRead 2) { katReady with op0 := 31 } = none ∧
    firstError (.sboxRead 3 1023) zeroReady = none ∧ firstError .roundF zeroReady = none := by decide
theorem witness_FailedCommandWritesErrAndStickyOnly :
    exec .encrypt blank = .next (blank.raise .noContext) ∧ (blank.raise .noContext).status.err ≠ .success ∧
    runCommand 0x0000000C blank = .next (blank.raise .illegal) ∧ (blank.raise .illegal).status.err ≠ .success :=
  ⟨rfl, by decide, rfl, by decide⟩
/-- A failing command, an illegal word, a command in a sticky state, a step that is no reset, and a reset. -/
theorem witness_StickyIsSetByErrorsAndClearedByResetOnly :
    exec .encrypt blank = .next (blank.raise .noContext) ∧ runCommand 0x0000000C blank = .next (blank.raise .illegal) ∧
    exec .nop (blank.raise .noContext) = .next (blank.raise .noContext).done ∧
    (blank.raise .noContext).status.sticky = true ∧
    step (blank.raise .noContext) = .next (blank.raise .noContext) ∧ (blank.raise .noContext).inputs = [] ∧
    (access .reset).inputs = [.reset] := ⟨rfl, rfl, rfl, rfl, rfl, rfl, rfl⟩
theorem witness_ErrorOfThePreviousCommandBlocksNothing :
    exec .nop (blank.raise .noContext) = .next (blank.raise .noContext).done ∧
    (blank.raise .noContext).status.sticky = true := ⟨rfl, rfl⟩

/-! Frames. -/

theorem witness_NoCommandWritesOperandsOrHostState :
    ∃ t, exec .scatter (operands 0xDEADBEEF 1 2 3) = .next t ∧ t.status.err = .success := ⟨_, rfl, rfl⟩
theorem witness_OneResultCommandsChangeOnlyRes0AndErr :
    (∃ t, exec (.sboxRead 3 1023) zeroReady = .next t ∧ t.status.err = .success) ∧
    (∃ t, exec .gfMul (operands 1 1 0xFF 0) = .next t ∧ t.status.err ≠ .success) :=
  ⟨⟨_, rfl, rfl⟩, ⟨_, rfl, by decide⟩⟩
theorem witness_BlockCommandsChangeOnlyResultsAndErr :
    (∃ t, exec .decrypt zeroReady = .next t ∧ t.status.err = .success) ∧
    (∃ t, exec .encrypt blank = .next t ∧ t.status.err ≠ .success) := ⟨⟨_, rfl, rfl⟩, ⟨_, rfl, by decide⟩⟩
theorem witness_CtxConfigChangesOnlyTheContext :
    ∃ t, exec .ctxConfig { katReady with op0 := 4 } = .next t ∧ t.status.err = .success := ⟨_, rfl, rfl⟩
/-- Chunk 0 at level 2: round 7 is its own, rounds 8 and 23 are not, round 24 is. -/
theorem witness_KeyChunkChangesOnlyItsRounds :
    (∃ t, exec (.keyChunk 0) loading0 = .next t ∧ t.status.err = .success) ∧
    chunkRound false 32 0 7 ∧ ¬chunkRound false 32 0 8 ∧ ¬chunkRound false 32 0 23 ∧ chunkRound false 32 0 24 := by
  refine ⟨⟨_, rfl, rfl⟩, ?_, ?_, ?_, ?_⟩ <;> simp [chunkRound]

/-! NOP, GF arithmetic, scatter, tables. -/

theorem witness_NopClearsErrAndNothingElse :
    ((0x00010000#32).extractLsb' 0 8 = 0 ∧ (0x00010000#32).extractLsb' 16 16 ≠ 0) ∧
    statusWord (blank.raise .illegal).status = 0x00000011 := by decide
theorem witness_GfMulIsThePolynomialProduct : (operands 0x57 0x83 0x11B 0).op2.getLsbD 8 = true := by decide
theorem witness_GfExp7IsTheSeventhPower : (operands 0x83 0 0x14D 0).op2.getLsbD 8 = true := by decide
/-- The largest table number and index. -/
theorem witness_SboxReadReturnsTheEntry :
    StateInv zeroReady ∧ zeroReady.status.sboxValid = true ∧ 3 < 4 ∧ 1023 < 1024 :=
  ⟨zeroReady_inv, rfl, by decide, by decide⟩
/-- The last row and column: index 0x3FF. -/
theorem witness_EntriesOfOneRowAreDistinct : indexOf 3 255 = 0x3FF ∧ indexOf 0 0 = 0 := by decide

/-! Context and key schedule. -/

/-- The two ends of the levels below 1. -/
theorem witness_LevelBelowOneGivesDegenerateMode :
    (operands 0 0 0 0).op0.toInt < 1 ∧ (operands 0x80000000 0 0 0).op0.toInt < 1 := by decide
/-- Level 1, level MAX_LEVEL, and the largest MAX_LEVEL. -/
theorem witness_LevelUpToMaxLevelConfiguresTheContext :
    (1 ≤ (operands 1 0 0 0).op0.toInt ∧ (operands 1 0 0 0).op0.toInt ≤ blank.maxLevel ∧ blank.maxLevel ≤ 4095) ∧
    ((operands 4 0 0 0).op0.toInt ≤ blank.maxLevel ∧ 1 ≤ (operands 4 0 0 0).op0.toInt) ∧
    (1 ≤ (4095#32).toInt ∧ (4095#32).toInt ≤ ((4095 : Nat) : Int)) := by decide
/-- Chunk 0 in LOADING(0), the last chunk in LOADING(1), and chunk 0 again in SET. -/
theorem witness_KeyChunkSchedulesTheClosedForm :
    (loading0.status.cfgValid = true ∧ loading0.status.degen = false ∧
      loading0.ctxcfg.rounds.toNat = 16 * loading0.ctxcfg.size.toNat ∧ 0 < loading0.ctxcfg.size.toNat) ∧
    (loading1.status.cfgValid = true ∧ loading1.status.degen = false ∧
      loading1.ctxcfg.rounds.toNat = 16 * loading1.ctxcfg.size.toNat ∧ 1 < loading1.ctxcfg.size.toNat ∧
      1 = loading1.status.nextChunk.toNat) ∧
    (katReady.status.cfgValid = true ∧ katReady.status.degen = false ∧ 0 < katReady.ctxcfg.size.toNat ∧
      katReady.ctxcfg.rounds.toNat = 16 * katReady.ctxcfg.size.toNat) := by decide
theorem witness_DegenerateKeyChunkSchedulesEightRounds :
    degenLoading.status.cfgValid = true ∧ degenLoading.status.degen = true ∧ degenLoading.ctxcfg.size.toNat = 1 := by
  decide
/-- The first and the last round and word. -/
theorem witness_KsReadReturnsTheSubkeyWord :
    StateInv katReady ∧ katReady.status.ksValid = true ∧ katReady.op0.toNat < katReady.ctxcfg.rounds.toNat ∧
    ({ katReady with op0 := 31 } : State).op0.toNat < katReady.ctxcfg.rounds.toNat ∧ 0 < 3 ∧ 2 < 3 :=
  ⟨katReady_inv, rfl, by decide, by decide, by decide, by decide⟩
theorem witness_LoadingAllChunksBuildsTheSchedule :
    loading0.status.cfgValid = true ∧ loading0.status.degen = false ∧
    [((0x1892D6AD : Word), (0x942FC554 : Word)), (0x55F9084D, 0x9A6393D9)].length = loading0.ctxcfg.size.toNat ∧
    loading0.ctxcfg.rounds.toNat = 16 * loading0.ctxcfg.size.toNat := by decide
theorem witness_LevelsZeroAndOneShareTheirFirstRounds : 1 ≤ blank.maxLevel := by decide

/-! Round function and Feistel engine. -/

theorem witness_RoundFResultIsOneEntryPerLane :
    zeroReady.status.sboxValid = true ∧ zeroReady.sbox = some builtTables := ⟨rfl, rfl⟩
theorem witness_RoundFIgnoresUpperOperandBits :
    (0xFFF12345#32).extractLsb' 0 20 = (0x00012345#32).extractLsb' 0 20 ∧
    ∃ t, exec .roundF { zeroReady with op1 := 0x00012345 } = .next t := ⟨by decide, _, rfl⟩
theorem witness_EncryptRunsTheRoundsForward :
    katReady.status.cfgValid = true ∧ katReady.status.ksValid = true ∧ katReady.status.sboxValid = true ∧
    2 * 15 + 1 < katReady.ctxcfg.rounds.toNat := by decide
theorem witness_DecryptRunsTheRoundsBackward :
    zeroReady.status.cfgValid = true ∧ zeroReady.status.ksValid = true ∧ zeroReady.status.sboxValid = true ∧
    2 * 3 + 1 < zeroReady.ctxcfg.rounds.toNat := by decide
theorem witness_DecryptUndoesEncrypt :
    katReady.status.cfgValid = true ∧ katReady.status.ksValid = true ∧ katReady.status.sboxValid = true ∧
    katReady.ctxcfg.rounds.toNat % 2 = 0 := by decide
/-- Two states that differ in OP2, RES0 and STICKY only. -/
theorem witness_BlockResultDependsOnBlockScheduleAndTablesOnly :
    (∃ t, exec .encrypt katReady = .next t ∧ t.status.err = .success) ∧
    (∃ t, exec .encrypt { katReady with op2 := 7, res0 := 9, status := { katReady.status with sticky := true } } =
      .next t ∧ t.status.err = .success) ∧
    (∀ r w : Nat, katReady.ksRead r w = ({ katReady with op2 := 7 } : State).ksRead r w) :=
  ⟨⟨_, rfl, rfl⟩, ⟨_, rfl, rfl⟩, fun _ _ => rfl⟩

/-! Lifecycle and assembly. -/

theorem witness_TablesAreBuiltByBuildAndLostByResetOnly :
    (∃ t, exec .sboxBuild blank = .next t) ∧ (∃ t, exec .nop katReady = .next t) ∧ step katReady = .next katReady ∧
    katReady.status.sboxValid = true ∧ katReady.inputs = [] := ⟨⟨_, rfl⟩, ⟨_, rfl⟩, rfl, rfl, rfl⟩
theorem witness_ContextStaysConfiguredUntilReset :
    (access .reset).inputs = [.reset] ∧ blank.status.cfgValid = false ∧
    (∃ t, exec .ctxConfig (operands 4 0 0 0) = .next t ∧ t.status.err = .success) ∧
    (∃ t, exec (.keyChunk 0) loading0 = .next t) ∧ step loading0 = .next loading0 ∧ loading0.status.cfgValid = true :=
  ⟨rfl, rfl, ⟨_, rfl, rfl⟩, ⟨_, rfl⟩, rfl, rfl⟩
/-- The four context states, and a move out of each. -/
theorem witness_ContextMovesAsItsStateMachineSays :
    (StateInv blank ∧ contextState blank = .none ∧ ∃ t, exec .ctxConfig blank = .next t ∧ t.status.err = .success) ∧
    (StateInv loading0 ∧ contextState loading0 = .loading 0 ∧
      ∃ t, exec (.keyChunk 0) loading0 = .next t ∧ t.status.err = .success) ∧
    (StateInv loading1 ∧ contextState loading1 = .loading 1 ∧
      ∃ t, exec (.keyChunk 1) loading1 = .next t ∧ t.status.err = .success) ∧
    (StateInv katReady ∧ contextState katReady = .set ∧
      ∃ t, exec (.keyChunk 2) katReady = .next t ∧ t.status.err ≠ .success) :=
  ⟨⟨blank_inv, rfl, _, rfl, rfl⟩, ⟨loading0_inv, rfl, _, rfl, rfl⟩, ⟨loading1_inv, rfl, _, rfl, rfl⟩,
    ⟨katReady_inv, rfl, _, rfl, by decide⟩⟩
theorem witness_EveryStepKeepsTheInvariant :
    (StateInv zeroReady ∧ step zeroReady = .next zeroReady) ∧
    (StateInv degenLoading ∧ step degenLoading = .next degenLoading) := ⟨⟨zeroReady_inv, rfl⟩, degenLoading_inv, rfl⟩
theorem witness_AssembledCommandRunsThatCommand :
    (Instr.ksRead 4).wellFormed = false ∧ (Instr.ksRead 3).wellFormed = true ∧
    (access (.write 0x00 4 0x00030008)).inputs = [.write 0x00 4 0x00030008] := ⟨rfl, rfl, rfl⟩

end Sys2Proof.Tests
end

section
/-! The invariant StateInv: it holds at reset and every step keeps it; and where the register window stands
(00_scope.md R7, R8; 10_state.md R24 to R35). -/

namespace Sys2Proof.Machine

/-! The register window. -/

/-- The addresses of the window are those of the offsets below 64, one each (00_scope.md R8; 20_memory.md R50). -/
theorem windowOffset_eq_some_iff {address offset : Nat} :
    windowOffset address = some offset ↔ offset < 64 ∧ busAddress offset = address := by
  unfold windowOffset busAddress
  split
  · simp only [Option.some.injEq]; omega
  · simp only [reduceCtorEq, false_iff]; omega

/-- An offset and its bus address have one alignment (20_memory.md R53). -/
theorem busAddress_mod_four (offset : Nat) : busAddress offset % 4 = offset % 4 := by
  unfold busAddress Config.iceBase
  omega

/-- Settles O11: ICE_BASE is 64 times a slot, and windowOffset inverts busAddress on the window. -/
theorem windowStandsAtAnAlignedBase : Obligations.WindowStandsAtAnAlignedBase :=
  ⟨Nat.mul_mod_right 64 _,
    fun offset inside => ⟨windowOffset_eq_some_iff.mpr ⟨inside, rfl⟩, busAddress_mod_four offset⟩,
    fun _ _ found => windowOffset_eq_some_iff.mp found⟩

/-! Reset. -/

/-- MAX_LEVEL is in its range, whatever the implementation chose (00_scope.md R7). -/
theorem configMaxLevel_range : 1 ≤ Config.maxLevel ∧ Config.maxLevel ≤ 4095 := by
  unfold Config.maxLevel
  omega

/-- Reset makes the invariant true from every state whose MAX_LEVEL is in its range. -/
theorem stateInv_hardReset {s : State} (range : 1 ≤ s.maxLevel ∧ s.maxLevel ≤ 4095) (rest : List Input) :
    StateInv (s.hardReset rest) where
  levelRange := range
  stickyOfError error := absurd rfl error
  tablesBuilt := rfl
  noContext _ := ⟨rfl, rfl, rfl, rfl, rfl⟩
  degenerate context := nomatch context
  general context := nomatch context
  loading context := nomatch context
  keySet key := nomatch key
  ksForm := rfl
  ksEntries _ _ found := nomatch found
  ksLoaded _ _ accepted := absurd accepted (Nat.not_lt_zero _)

/-- Settles O57: State.reset is what reset makes of itself, and MAX_LEVEL is in its range. -/
theorem resetSatisfiesTheInvariant : Obligations.ResetSatisfiesTheInvariant :=
  stateInv_hardReset (s := State.reset) configMaxLevel_range []

/-! Updates that touch nothing the invariant speaks of. -/

namespace StateInv

variable {s : State}

theorem raise (h : StateInv s) (e : ErrCode) : StateInv (s.raise e) :=
  { h with stickyOfError := fun _ => rfl }

theorem done (h : StateInv s) : StateInv s.done :=
  { h with stickyOfError := fun error => absurd rfl error }

theorem setRes0 (h : StateInv s) (v : Word) : StateInv (s.setRes0 v) := { h with }

theorem setBlock (h : StateInv s) (left right : Word) : StateInv (s.setBlock left right) := { h with }

theorem setOperands (h : StateInv s) (v0 v1 v2 v3 : Word) :
    StateInv { s with op0 := v0, op1 := v1, op2 := v2, op3 := v3 } := { h with }

theorem advance (h : StateInv s) (rest : List Input) : StateInv (s.advance rest) := { h with }

theorem observe (h : StateInv s) (v : Word) : StateInv (s.observe v) := { h with }

/-! SBOX.BUILD and CTX.CONFIG. -/

theorem build (h : StateInv s) :
    StateInv { s with sbox := some builtTables, status := flagsAfterBuild s.status } :=
  { h with tablesBuilt := rfl }

/-- A new context: the level bounds of 43_keysched.md R133 give CTXCFG its values, and nothing is loaded yet. -/
theorem configure (h : StateInv s) {size rounds : Nat} {degen : Bool}
    (degenerate : degen = true → size = 1 ∧ rounds = 8)
    (general : degen = false → 1 ≤ size ∧ size ≤ s.maxLevel ∧ rounds = 16 * size) :
    StateInv (s.configure size rounds degen) := by
  have range := h.levelRange
  obtain ⟨positive, sizeFits, roundsFit⟩ : 0 < size ∧ size < 2 ^ 16 ∧ rounds < 2 ^ 16 := by
    cases degen
    · obtain ⟨low, high, rfl⟩ := general rfl; omega
    · obtain ⟨rfl, rfl⟩ := degenerate rfl; omega
  have sizeEq : (BitVec.ofNat 16 size).toNat = size := Nat.mod_eq_of_lt sizeFits
  have roundsEq : (BitVec.ofNat 16 rounds).toNat = rounds := Nat.mod_eq_of_lt roundsFit
  exact
    { levelRange := range
      stickyOfError := h.stickyOfError
      tablesBuilt := h.tablesBuilt
      noContext := fun context => nomatch context
      degenerate := fun _ mode => by simpa [sizeEq, roundsEq] using degenerate mode
      general := fun _ mode => by simpa [sizeEq, roundsEq] using general mode
      loading := fun _ _ => positive.trans_eq sizeEq.symm
      keySet := fun key => nomatch key
      ksForm := rfl
      ksEntries := fun _ _ found => nomatch found
      ksLoaded := fun _ _ accepted => absurd accepted (Nat.not_lt_zero _) }

end StateInv

/-! KEY.CHUNK: which rounds it writes, and that each holds 20-bit words. -/

/-- The chunks KEY.CHUNK accepts: chunk 0, or the next one, below SIZE (43_keysched.md R134). -/
theorem chunkOutOfOrder_eq_false_iff {s : State} {c : Nat} :
    s.chunkOutOfOrder c = false ↔ c < s.ctxcfg.size.toNat ∧ (c = 0 ∨ c = s.status.nextChunk.toNat) := by
  simp only [State.chunkOutOfOrder, Bool.or_eq_false_iff, Bool.and_eq_false_iff, decide_eq_false_iff_not]
  omega

/-- A subkey word has 20 significant bits (43_keysched.md R136). -/
theorem roundSubkey_toNat_lt (kr : Nat) (kb : KeyBuffer) {w : Nat} (hw : w < 3) :
    (subkeyWord (roundSubkey kr kb).1 w).toNat < 2 ^ 20 := by
  refine Nat.lt_pow_two_of_testBit _ fun b high => ?_
  rw [BitVec.testBit_toNat]
  by_cases inside : b < 32
  · have bit := roundSubkey_getLsbD kr 0 kb hw inside
    rw [shiftAll_zero] at bit
    simp [bit, show ¬b < 20 by omega]
  · exact BitVec.getLsbD_of_ge _ _ (by omega)

theorem roundSubkey_is20 (kr : Nat) (kb : KeyBuffer) : subkeyIs20 (roundSubkey kr kb).1 :=
  ⟨roundSubkey_toNat_lt kr kb (w := 0) (by decide), roundSubkey_toNat_lt kr kb (w := 1) (by decide),
    roundSubkey_toNat_lt kr kb (w := 2) (by decide)⟩

@[simp] theorem chunkRound_degenerate {rounds c r : Nat} : chunkRound true rounds c r ↔ r < 8 := Iff.rfl

@[simp] theorem chunkRound_general {rounds c r : Nat} : chunkRound false rounds c r ↔
    (8 * c ≤ r ∧ r < 8 * c + 8) ∨ (rounds - 8 - 8 * c ≤ r ∧ r < rounds - 8 - 8 * c + 8) := Iff.rfl

theorem scheduleChunk_degenerate (rounds c : Nat) (acc : KeySchedule × KeyBuffer) :
    scheduleChunk true rounds c acc = buildRoundKeys 0 0 acc := rfl

theorem scheduleChunk_general (rounds c : Nat) (acc : KeySchedule × KeyBuffer) :
    scheduleChunk false rounds c acc = buildRoundKeys (rounds - 8 - 8 * c) 8 (buildRoundKeys (8 * c) 0 acc) := rfl

section
variable {degen : Bool} {rounds c : Nat} {acc : KeySchedule × KeyBuffer}

/-- A property of the entries of a chunk's rounds and of the entries before, kept by the whole store. -/
theorem scheduleChunk_entries {P : Nat → Subkey → Prop}
    (new : ∀ r sk, chunkRound degen rounds c r → subkeyIs20 sk → P r sk)
    (old : ∀ r sk, ksFind acc.1 r = some sk → P r sk) :
    ∀ r sk, ksFind (scheduleChunk degen rounds c acc).1 r = some sk → P r sk := by
  have written : ∀ n base : Nat, (∀ i < 8, chunkRound degen rounds c (n + i)) →
      ∀ i kb, i < 8 → P (n + i) (roundSubkey (rot (base + i)) kb).1 :=
    fun n base ofChunk i kb hi => new _ _ (ofChunk i hi) (roundSubkey_is20 _ _)
  cases degen
  case true =>
    rw [scheduleChunk_degenerate]
    exact buildRoundKeys_entries (written 0 0 fun i hi => by simpa using hi) old
  case false =>
    rw [scheduleChunk_general]
    refine buildRoundKeys_entries (written _ _ fun i hi => ?_)
      (buildRoundKeys_entries (written _ _ fun i hi => ?_) old)
    · rw [chunkRound_general]; omega
    · rw [chunkRound_general]; omega

/-- KEY.CHUNK leaves a value in every round that held one. -/
theorem scheduleChunk_isSome {r : Nat} (held : (ksFind acc.1 r).isSome = true) :
    (ksFind (scheduleChunk degen rounds c acc).1 r).isSome = true := by
  cases degen
  case true => rw [scheduleChunk_degenerate]; exact buildRoundKeys_isSome held
  case false => rw [scheduleChunk_general]; exact buildRoundKeys_isSome (buildRoundKeys_isSome held)

/-- KEY.CHUNK leaves a value in each of its rounds. -/
theorem scheduleChunk_written {r : Nat} (ofChunk : chunkRound degen rounds c r) :
    (ksFind (scheduleChunk degen rounds c acc).1 r).isSome = true := by
  cases degen
  case true =>
    rw [scheduleChunk_degenerate]
    exact buildRoundKeys_written (Nat.zero_le r) (by simpa using ofChunk)
  case false =>
    rw [scheduleChunk_general]
    obtain ⟨low, high⟩ | ⟨low, high⟩ := chunkRound_general.mp ofChunk
    · exact buildRoundKeys_isSome (buildRoundKeys_written low high)
    · exact buildRoundKeys_written low high

end

/-! KEY.CHUNK in a state that satisfies the invariant. -/

namespace StateInv

variable {s : State} {c : Nat}

/-- The rounds of every chunk of the key are below ROUNDS. -/
theorem chunkRound_lt (h : StateInv s) (context : s.status.cfgValid = true) (inKey : c < s.ctxcfg.size.toNat) {r : Nat}
    (ofChunk : chunkRound s.status.degen s.ctxcfg.rounds.toNat c r) : r < s.ctxcfg.rounds.toNat := by
  cases mode : s.status.degen
  case true =>
    obtain ⟨-, roundsEq⟩ := h.degenerate context mode
    rw [mode, chunkRound_degenerate] at ofChunk
    omega
  case false =>
    obtain ⟨-, -, roundsEq⟩ := h.general context mode
    rw [mode, chunkRound_general] at ofChunk
    omega

/-- With a key set no chunk but chunk 0 is accepted, so KS_VALID is 1 after a chunk exactly when it is the last
(10_state.md R31). -/
theorem loadChunk_ksValid_iff (h : StateInv s) (order : s.chunkOutOfOrder c = false) :
    (s.loadChunk c).status.ksValid = true ↔ c + 1 = s.ctxcfg.size.toNat := by
  obtain ⟨inKey, inOrder⟩ := chunkOutOfOrder_eq_false_iff.mp order
  simp only [State.loadChunk_status, flagsAfterChunk_ksValid, ksValidAfterChunk]
  split
  · next last => simp [last]
  · next notLast =>
    split
    · simp [notLast]
    · next notFirst =>
      have noKey : s.status.ksValid ≠ true := fun key => by
        have := congrArg BitVec.toNat (h.keySet key)
        omega
      simp [notLast, noKey]

/-- NEXT_CHUNK after chunk c is c + 1, without wrapping: c is below SIZE. -/
theorem loadChunk_nextChunk_toNat (order : s.chunkOutOfOrder c = false) :
    (s.loadChunk c).status.nextChunk.toNat = c + 1 := by
  obtain ⟨inKey, -⟩ := chunkOutOfOrder_eq_false_iff.mp order
  have := s.ctxcfg.size.isLt
  simp only [State.loadChunk_status, flagsAfterChunk_nextChunk, BitVec.toNat_ofNat]
  omega

/-- An accepted chunk: its own rounds are written, and those of the chunks before it are kept. -/
theorem loadChunk (h : StateInv s) (context : s.status.cfgValid = true) (order : s.chunkOutOfOrder c = false) :
    StateInv (s.loadChunk c) := by
  obtain ⟨inKey, inOrder⟩ := chunkOutOfOrder_eq_false_iff.mp order
  have nextEq := loadChunk_nextChunk_toNat order
  have keyIff := h.loadChunk_ksValid_iff order
  exact
    { h with
      noContext := fun none => absurd (context.symm.trans none) (by decide)
      loading := fun _ noKey => by
        have notLast : c + 1 ≠ s.ctxcfg.size.toNat := fun last =>
          absurd (noKey.symm.trans (keyIff.mpr last)) (by decide)
        rw [nextEq, State.loadChunk_ctxcfg]
        omega
      keySet := fun key => BitVec.eq_of_toNat_eq (nextEq.trans (keyIff.mp key))
      ksForm := scheduleChunk_canonical _ _ _ h.ksForm
      ksEntries := scheduleChunk_entries (fun r sk ofChunk is20 => ⟨h.chunkRound_lt context inKey ofChunk, is20⟩)
        h.ksEntries
      ksLoaded := fun c' r accepted ofChunk => by
        rw [nextEq] at accepted
        by_cases own : c' = c
        · subst own
          exact scheduleChunk_written ofChunk
        · exact scheduleChunk_isSome (h.ksLoaded c' r (by omega) ofChunk) }

/-! Every command and every step. -/

/-- A command keeps the invariant: one case an effect of exec. -/
theorem of_exec (h : StateInv s) {i : Instr} {t : State} (answer : exec i s = .next t) : StateInv t := by
  cases exec_effect answer with
  | failed _ => exact h.raise _
  | nop => exact h.done
  | result v _ => exact (h.setRes0 v).done
  | built => exact h.build.done
  | degenerate _ => exact (h.configure (degen := true) (fun _ => ⟨rfl, rfl⟩) (fun mode => nomatch mode)).done
  | configured low high =>
    exact (h.configure (degen := false) (fun mode => nomatch mode) (fun _ => ⟨by omega, by omega, rfl⟩)).done
  | loaded context order => exact (h.loadChunk context order).done
  | encrypted left right => exact (h.setBlock left right).done
  | decrypted left right => exact (h.setBlock left right).done

/-- A step keeps the invariant: one case an effect of step. -/
theorem of_step (h : StateInv s) {t : State} (answer : step s = .next t) : StateInv t := by
  cases step_effect answer with
  | waited _ => exact h
  | reset _ => exact stateInv_hardReset h.levelRange _
  | read _ v => exact (h.advance _).observe v
  | op0 _ => exact (h.advance _).setOperands _ s.op1 s.op2 s.op3
  | op1 _ => exact (h.advance _).setOperands s.op0 _ s.op2 s.op3
  | op2 _ => exact (h.advance _).setOperands s.op0 s.op1 _ s.op3
  | op3 _ => exact (h.advance _).setOperands s.op0 s.op1 s.op2 _
  | illegal _ _ => exact (h.advance _).raise _
  | command _ _ effect => exact (h.advance _).of_exec effect

end StateInv

/-- Settles O58, by the cases of step_effect and, for a command, of exec_effect. -/
theorem everyStepKeepsTheInvariant : Obligations.EveryStepKeepsTheInvariant :=
  fun _ _ inv answer => inv.of_step answer

end Sys2Proof.Machine
end

section
/-! The registers and flags of 10_state.md: what a host access and a reset do to them, which of them each command may
write, and who sets and clears STICKY, SBOX_VALID and CFG_VALID. -/

namespace Sys2Proof.Machine

/-! One step, by the input it takes. -/

/-- A reset input is done whole in one step (70_reset_and_hazards.md R231). -/
theorem step_reset {s : State} {rest : List Input} (input : s.inputs = .reset :: rest) :
    step s = .next (s.hardReset rest) := by
  simp only [step, input]

/-- A 32-bit access at a register's offset reaches that register (20_memory.md R51). -/
theorem accessReg_regOffset (r : WindowReg) : accessReg (regOffset r) 4 = .ok r := by
  cases r <;> rfl

/-- A 32-bit write at a register's offset writes that register. -/
theorem step_write {s : State} {r : WindowReg} {v : Word} {rest : List Input}
    (input : s.inputs = .write (regOffset r) 4 v :: rest) : step s = regWrite r v (s.advance rest) := by
  simp only [step, input, hostWrite, accessReg_regOffset]

/-- Settles O7: the register at offset 0x00 is CMD, and a write of CMD decodes its word. -/
theorem stepRunsTheDecodedCommand : Obligations.StepRunsTheDecodedCommand := by
  intro s w rest input
  have run : step s = runCommand w (s.advance rest) := step_write (r := .cmd) input
  exact ⟨fun _ legal => run.trans (runCommand_ok legal _), fun _ illegal => run.trans (runCommand_error illegal _)⟩

/-- Settles O9: each of the four offsets is its operand register's. -/
theorem operandWriteSetsThatRegisterOnly : Obligations.OperandWriteSetsThatRegisterOnly :=
  fun _ _ _ => ⟨step_write (r := .op0), step_write (r := .op1), step_write (r := .op2), step_write (r := .op3)⟩

/-! The words of STATUS and CTXCFG. -/

/-- STATUS[15:0], bit by bit (10_state.md R24). -/
theorem statusWord_getLsbD_low (f : Status) (k : Nat) (low : k < 16) :
    (statusWord f).getLsbD k =
      if k < 4 then (errBits f.err).getLsbD k
      else if k = 4 then f.sticky
      else if k = 8 then f.sboxValid
      else if k = 9 then f.cfgValid
      else if k = 10 then f.ksValid
      else if k = 11 then f.degen
      else false := by
  have lower : (statusWord f).getLsbD k = (statusLow f).getLsbD k := BitVec.getLsbD_append.trans (if_pos low)
  rw [lower]
  refine BitVec.getLsbD_append.trans ?_
  simp only [BitVec.getLsbD_append]
  interval_cases k <;> simp

/-- ERR is STATUS[3:0] (10_state.md R24, R26). -/
theorem statusWord_err (f : Status) : (statusWord f).extractLsb' 0 4 = errBits f.err := by
  ext k hk
  rw [BitVec.getElem_extractLsb', statusWord_getLsbD_low f _ (by omega)]
  simp [hk]

/-- STATUS[7:5] and STATUS[15:12] are reserved (10_state.md R24). -/
theorem statusWord_reserved (f : Status) {k : Nat} (reserved : (5 ≤ k ∧ k < 8) ∨ (12 ≤ k ∧ k < 16)) :
    (statusWord f).getLsbD k = false := by
  rw [statusWord_getLsbD_low f k (by omega)]
  obtain ⟨low, high⟩ | ⟨low, high⟩ := reserved
  · interval_cases k <;> rfl
  · interval_cases k <;> rfl

/-- The words of STATUS and CTXCFG after reset (10_state.md R39). -/
theorem statusWord_reset : statusWord Status.reset = 0 := by decide

theorem ctxcfgWord_reset : ctxcfgWord ⟨0, 0⟩ = 0 := by decide

/-- Settles O12: the low half of STATUS bit by bit, and the halves of an appended word. -/
theorem statusAndCtxcfgWordsHaveTheirFields : Obligations.StatusAndCtxcfgWordsHaveTheirFields := by
  refine ⟨fun f => ?_, fun c => ⟨BitVec.extractLsb'_append_eq_right, BitVec.extractLsb'_append_eq_left⟩⟩
  refine ⟨?err, statusWord_getLsbD_low f 4 (by decide), ?reserved7to5, statusWord_getLsbD_low f 8 (by decide),
    statusWord_getLsbD_low f 9 (by decide), statusWord_getLsbD_low f 10 (by decide),
    statusWord_getLsbD_low f 11 (by decide), ?reserved15to12, BitVec.extractLsb'_append_eq_left⟩
  case err =>
    rw [statusWord_err]
    cases f.err <;> rfl
  case reserved7to5 =>
    ext k hk
    rw [BitVec.getElem_extractLsb', statusWord_reserved f (by omega)]
    simp
  case reserved15to12 =>
    ext k hk
    rw [BitVec.getElem_extractLsb', statusWord_reserved f (by omega)]
    simp

/-- Settles O13: the step is State.hardReset, whose fields are those of State.reset. -/
theorem resetLeavesTheDocumentedState : Obligations.ResetLeavesTheDocumentedState :=
  ⟨fun s rest input => ⟨s.hardReset rest, step_reset input,
      statusWord_reset, ctxcfgWord_reset, rfl, rfl, rfl, rfl, rfl, rfl, rfl, rfl, rfl, rfl, rfl⟩,
    statusWord_reset, ctxcfgWord_reset, rfl, rfl, rfl, rfl, rfl, rfl, rfl, rfl, rfl⟩

/-! The two ends of a command, each as one record of the state with STICKY set by a nonzero ERR (10_state.md R27). -/

theorem State.raise_eq (s : State) {e : ErrCode} (error : e ≠ .success) :
    s.raise e = { s with status := { s.status with
      err := e, sticky := s.status.sticky || decide (e ≠ .success) } } := by
  simp [State.raise, error]

theorem State.done_eq (s : State) :
    s.done = { s with status := { s.status with
      err := .success, sticky := s.status.sticky || decide (ErrCode.success ≠ .success) } } := by
  simp [State.done]

/-! Frames: which registers and stores a command may write. -/

/-- A command sets STICKY when it ends with a nonzero ERR, and does not write it otherwise (10_state.md R27). -/
theorem exec_sticky {i : Instr} {s t : State} (answer : exec i s = .next t) :
    t.status.sticky = (s.status.sticky || decide (t.status.err ≠ .success)) := by
  cases exec_effect answer with
  | failed error => exact congrArg (·.status.sticky) (s.raise_eq error)
  | _ => exact congrArg (·.status.sticky) (State.done_eq _)

/-- Settles O22: no effect of a command reaches those fields. -/
theorem noCommandWritesOperandsOrHostState : Obligations.NoCommandWritesOperandsOrHostState := by
  intro i s t answer
  cases exec_effect answer <;> exact ⟨rfl, rfl, rfl, rfl, rfl, rfl, rfl, rfl⟩

/-- Settles O23: such a command fails, is NOP, or writes its result to RES0. -/
theorem oneResultCommandsChangeOnlyRes0AndErr : Obligations.OneResultCommandsChangeOnlyRes0AndErr := by
  intro i s t which answer
  have one : i = .nop ∨ oneResult i = true := by
    rcases which with rfl | rfl | rfl | rfl | ⟨_, _, rfl⟩ | ⟨_, rfl⟩ | rfl <;> simp [oneResult]
  cases exec_effect answer with
  | failed error => exact ⟨s.raise_eq error, fun _ => rfl⟩
  | nop => exact ⟨s.done_eq, fun _ => rfl⟩
  | result v writes =>
    refine ⟨(s.setRes0 v).done_eq, fun kept => ?_⟩
    rcases kept with rfl | error
    · cases writes
    · exact absurd rfl error
  | _ => simp [oneResult] at one

/-- Settles O24: such a command fails or writes its block. -/
theorem blockCommandsChangeOnlyResultsAndErr : Obligations.BlockCommandsChangeOnlyResultsAndErr := by
  intro i s t which answer
  cases exec_effect answer with
  | failed error => exact ⟨s.raise_eq error, fun _ => ⟨rfl, rfl⟩⟩
  | encrypted left right => exact ⟨(s.setBlock left right).done_eq, fun error => absurd rfl error⟩
  | decrypted left right => exact ⟨(s.setBlock left right).done_eq, fun error => absurd rfl error⟩
  | result v writes => rcases which with rfl | rfl <;> cases writes
  | _ => simp at which

/-- Settles O25: CTX.CONFIG fails or configures a context. -/
theorem ctxConfigChangesOnlyTheContext : Obligations.CtxConfigChangesOnlyTheContext := by
  intro s t answer
  cases exec_effect answer with
  | failed error => exact s.raise_eq error
  | degenerate => exact (s.configure 1 8 true).done_eq
  | configured => exact (s.configure s.level.toNat (16 * s.level.toNat) false).done_eq
  | result v writes => cases writes

/-! KEY.CHUNK: the rounds outside its chunk. -/

/-- KEY.CHUNK leaves every round outside its chunk as it was (43_keysched.md R134). -/
theorem scheduleChunk_other {degen : Bool} {rounds c r : Nat} {acc : KeySchedule × KeyBuffer}
    (outside : ¬chunkRound degen rounds c r) : ksFind (scheduleChunk degen rounds c acc).1 r = ksFind acc.1 r := by
  cases degen
  case true =>
    rw [chunkRound_degenerate] at outside
    rw [scheduleChunk_degenerate, buildRoundKeys_other _ _ _ (by omega)]
  case false =>
    rw [chunkRound_general] at outside
    rw [scheduleChunk_general, buildRoundKeys_other _ _ _ (by omega), buildRoundKeys_other _ _ _ (by omega)]

/-- A round reads the same in two stores that hold the same entry for it. -/
theorem ksRead_congr {s t : State} {r : Nat} (same : ksFind t.ks r = ksFind s.ks r) (w : Nat) :
    t.ksRead r w = s.ksRead r w := by
  simp only [State.ksRead, same]

/-- Settles O26: KEY.CHUNK fails or loads its chunk, which keeps the other rounds. -/
theorem keyChunkChangesOnlyItsRounds : Obligations.KeyChunkChangesOnlyItsRounds := by
  intro c s t answer
  cases exec_effect answer with
  | failed error => exact ⟨s.raise_eq error, fun _ _ _ => rfl⟩
  | loaded => exact ⟨(s.loadChunk c).done_eq, fun r w outside => ksRead_congr (scheduleChunk_other outside) w⟩
  | result v writes => cases writes

/-! Flags that only reset clears. -/

/-- A property of STATUS that E_ILLEGAL and every command keep is kept by every step but reset. -/
theorem step_keeps_flag {P : Status → Prop}
    (illegal : ∀ f, P f → P { f with err := .illegal, sticky := true })
    (command : ∀ i s t, exec i s = .next t → P s.status → P t.status)
    {s t : State} (answer : step s = .next t) (held : P s.status) (noReset : ∀ rest, s.inputs ≠ .reset :: rest) :
    P t.status := by
  cases step_effect answer with
  | reset input => exact absurd input (noReset _)
  | illegal => exact illegal _ held
  | command _ _ effect => exact command _ _ _ effect held
  | _ => exact held

section
variable {i : Instr} {s t : State}

theorem exec_sticky_of_error (answer : exec i s = .next t) (error : t.status.err ≠ .success) :
    t.status.sticky = true := by
  simp [exec_sticky answer, error]

theorem exec_keeps_sticky (answer : exec i s = .next t) (set : s.status.sticky = true) : t.status.sticky = true := by
  simp [exec_sticky answer, set]

/-- A CMD write that ends with a nonzero ERR ran a failing command or raised E_ILLEGAL. -/
theorem runCommand_sticky_of_error {w : Word} (answer : runCommand w s = .next t) (error : t.status.err ≠ .success) :
    t.status.sticky = true := by
  rcases decoded : decode w with e | i
  · rw [runCommand_error decoded] at answer
    cases answer
    rfl
  · rw [runCommand_ok decoded] at answer
    exact exec_sticky_of_error answer error

/-- No command but SBOX.BUILD writes SBOX_VALID or the tables (10_state.md R29). -/
theorem exec_tables (other : i ≠ .sboxBuild) (answer : exec i s = .next t) :
    t.status.sboxValid = s.status.sboxValid ∧ t.sbox = s.sbox := by
  cases exec_effect answer with
  | built => exact absurd rfl other
  | _ => exact ⟨rfl, rfl⟩

/-- SBOX.BUILD has no check that can fail (42_sbox.md R114). -/
theorem exec_sboxBuild_sboxValid (answer : exec .sboxBuild s = .next t) : t.status.sboxValid = true := by
  rw [finish_next answer]
  rfl

theorem exec_keeps_sboxValid (answer : exec i s = .next t) (set : s.status.sboxValid = true) :
    t.status.sboxValid = true := by
  by_cases build : i = .sboxBuild
  · subst build
    exact exec_sboxBuild_sboxValid answer
  · exact (exec_tables build answer).1.trans set

/-- No command but CTX.CONFIG writes CFG_VALID (10_state.md R30). -/
theorem exec_cfgValid (other : i ≠ .ctxConfig) (answer : exec i s = .next t) :
    t.status.cfgValid = s.status.cfgValid := by
  cases exec_effect answer with
  | degenerate => exact absurd rfl other
  | configured => exact absurd rfl other
  | _ => rfl

/-- A successful CTX.CONFIG sets CFG_VALID, and a failing one keeps it. -/
theorem exec_ctxConfig_cfgValid (answer : exec .ctxConfig s = .next t) :
    t.status.cfgValid = (s.status.cfgValid || decide (t.status.err = .success)) := by
  cases exec_effect answer with
  | failed error => simp [error]
  | degenerate => simp
  | configured => simp
  | result v writes => cases writes

theorem exec_keeps_cfgValid (answer : exec i s = .next t) (set : s.status.cfgValid = true) :
    t.status.cfgValid = true := by
  by_cases config : i = .ctxConfig
  · subst config
    simp [exec_ctxConfig_cfgValid answer, set]
  · exact (exec_cfgValid config answer).trans set

/-- The check of CFG_VALID comes first in the four commands that need a context (60_exceptions.md R205). -/
theorem exec_of_noContext (needs : needsContext i = true) (unset : s.status.cfgValid = false) :
    exec i s = .next (s.raise .noContext) := by
  cases i with
  | keyChunk c => exact if_pos unset
  | ksRead w => exact if_pos unset
  | encrypt => exact if_pos unset
  | decrypt => exact if_pos unset
  | _ => cases needs

end

/-- Settles O20: by exec_sticky for a command, and by step_keeps_flag for a step. -/
theorem stickyIsSetByErrorsAndClearedByResetOnly : Obligations.StickyIsSetByErrorsAndClearedByResetOnly :=
  ⟨fun _ _ _ => exec_sticky_of_error, fun _ _ _ => runCommand_sticky_of_error, fun _ _ _ => exec_keeps_sticky,
    fun _ _ => step_keeps_flag (P := (·.sticky = true)) (fun _ _ => rfl) (fun _ _ _ => exec_keeps_sticky),
    fun s rest input => ⟨s.hardReset rest, step_reset input, rfl⟩⟩

/-- Settles O54: by exec_tables for a command, and by step_keeps_flag for a step. -/
theorem tablesAreBuiltByBuildAndLostByResetOnly : Obligations.TablesAreBuiltByBuildAndLostByResetOnly :=
  ⟨fun _ _ => exec_sboxBuild_sboxValid, fun _ _ _ => exec_tables,
    fun _ _ => step_keeps_flag (P := (·.sboxValid = true)) (fun _ => id) (fun _ _ _ => exec_keeps_sboxValid)⟩

/-- Settles O55: by exec_cfgValid and exec_ctxConfig_cfgValid for a command, and by step_keeps_flag for a step. -/
theorem contextStaysConfiguredUntilReset : Obligations.ContextStaysConfiguredUntilReset := by
  refine ⟨rfl, fun s rest input => ⟨s.hardReset rest, step_reset input, rfl⟩, fun i s which unset => ?_,
    fun s t answer success => ?_, fun _ _ _ => exec_cfgValid,
    fun _ _ => step_keeps_flag (P := (·.cfgValid = true)) (fun _ => id) (fun _ _ _ => exec_keeps_cfgValid)⟩
  · have needs : needsContext i = true := by
      rcases which with ⟨_, rfl⟩ | ⟨_, rfl⟩ | rfl | rfl <;> rfl
    exact exec_of_noContext needs unset
  · simp [exec_ctxConfig_cfgValid answer, success]

end Sys2Proof.Machine
end

section
/-! The register window of 20_memory.md: every command ends in a next state, which accesses are bus errors, and what a
read returns. -/

namespace Sys2Proof.Machine

/-! Commands never stop (20_memory.md R57; 60_exceptions.md R202). -/

/-- A command's check: when it fails the command ends in a next state, so the rest decides. -/
theorem check_next {failing : Prop} [Decidable failing] {failed : State} {others : Result}
    (next : ∃ t, others = .next t) : ∃ t, (if failing then .next failed else others) = Host.Outcome.next t := by
  split
  · exact ⟨failed, rfl⟩
  · exact next

theorem blockCommand_next (s : State) (out : Halves) : ∃ t, blockCommand s out = .next t :=
  check_next (check_next (check_next ⟨_, rfl⟩))

/-- Settles O15: each command is a chain of checks, none to three of them, that ends in a next state. -/
theorem everyCommandEndsInANextState : Obligations.EveryCommandEndsInANextState := by
  intro i s
  cases i with
  | nop => exact ⟨_, rfl⟩
  | gfMul => exact check_next ⟨_, rfl⟩
  | gfExp7 => exact check_next ⟨_, rfl⟩
  | scatter => exact ⟨_, rfl⟩
  | sboxBuild => exact ⟨_, rfl⟩
  | sboxRead t k => exact check_next ⟨_, rfl⟩
  | ctxConfig => exact check_next (check_next ⟨_, rfl⟩)
  | keyChunk c => exact check_next (check_next ⟨_, rfl⟩)
  | ksRead w => exact check_next (check_next (check_next ⟨_, rfl⟩))
  | roundF => exact check_next ⟨_, rfl⟩
  | encrypt => exact blockCommand_next s _
  | decrypt => exact blockCommand_next s _

/-- A write to CMD ends in a next state, whether its word is legal or not. -/
theorem runCommand_next (w : Word) (s : State) : ∃ t, runCommand w s = .next t := by
  rcases decoded : decode w with e | i
  · exact ⟨_, runCommand_error decoded s⟩
  · rw [runCommand_ok decoded]
    exact everyCommandEndsInANextState i s

/-! Which accesses are bus errors (20_memory.md R54). -/

/-- The registers a read may reach: all but CMD (20_memory.md R54). -/
def readableRegs : List WindowReg := [.status, .ctxcfg, .op0, .op1, .op2, .op3, .res0, .res1]

/-- The registers a write may reach (20_memory.md R54). -/
def writableRegs : List WindowReg := [.cmd, .op0, .op1, .op2, .op3]

theorem regValue_error_iff {r : WindowReg} {s : State} : (∃ f, regValue r s = .error f) ↔ r ∉ readableRegs := by
  cases r <;> simp [regValue, readableRegs]

theorem regWrite_fault_iff {r : WindowReg} {v : Word} {s : State} :
    (∃ f, regWrite r v s = .fault f) ↔ r ∉ writableRegs := by
  cases r with
  | cmd =>
    obtain ⟨t, run⟩ := runCommand_next v s
    simp [regWrite, writableRegs, run]
  | _ => simp [regWrite, writableRegs]

section
variable {offset bytes : Nat} {rest : List Input} {s : State}

theorem accessReg_eq_ok_iff {r : WindowReg} : accessReg offset bytes = .ok r ↔ offset = regOffset r ∧ bytes = 4 := by
  refine ⟨accessReg_offset, ?_⟩
  rintro ⟨rfl, rfl⟩
  exact accessReg_regOffset r

theorem regOffset_aligned (r : WindowReg) : regOffset r % 4 = 0 := by
  cases r <;> rfl

/-- An access misses a list of registers exactly when it is not 32 bits wide, not aligned, or at none of their offsets. -/
theorem accessReg_misses_iff {registers : List WindowReg} :
    (∀ r, accessReg offset bytes = .ok r → r ∉ registers) ↔
      bytes ≠ 4 ∨ offset % 4 ≠ 0 ∨ offset ∉ registers.map regOffset := by
  rw [← not_iff_not]
  push Not
  simp only [accessReg_eq_ok_iff, List.mem_map]
  constructor
  · rintro ⟨r, ⟨rfl, width⟩, listed⟩
    exact ⟨width, regOffset_aligned r, r, listed, rfl⟩
  · rintro ⟨width, -, r, listed, rfl⟩
    exact ⟨r, ⟨rfl, width⟩, listed⟩

theorem hostRead_fault_iff :
    (∃ f, hostRead offset bytes rest s = .fault f) ↔ ∀ r, accessReg offset bytes = .ok r → r ∉ readableRegs := by
  rcases reached : accessReg offset bytes with e | r
  · simp [hostRead, busRead, reached]
  · simp only [Except.ok.injEq, forall_eq', ← regValue_error_iff (s := s)]
    rcases value : regValue r s with e | v <;> simp [hostRead, busRead, reached, value]

theorem hostWrite_fault_iff {v : Word} :
    (∃ f, hostWrite offset bytes v rest s = .fault f) ↔ ∀ r, accessReg offset bytes = .ok r → r ∉ writableRegs := by
  rcases reached : accessReg offset bytes with e | r
  · simp [hostWrite, reached]
  · simp [hostWrite, reached, regWrite_fault_iff]

theorem step_eq_hostRead (input : s.inputs = .read offset bytes :: rest) :
    step s = hostRead offset bytes rest s := by
  simp only [step, input]

theorem step_eq_hostWrite {v : Word} (input : s.inputs = .write offset bytes v :: rest) :
    step s = hostWrite offset bytes v rest s := by
  simp only [step, input]

end

/-- Settles O10: an access faults when it reaches no register that it may read, or write. -/
theorem accessFaultsExactlyWhenABusError : Obligations.AccessFaultsExactlyWhenABusError := by
  refine fun s offset bytes rest => ⟨fun input => ?read, fun v input => ?write⟩
  case read =>
    rw [step_eq_hostRead input]
    exact hostRead_fault_iff.trans accessReg_misses_iff
  case write =>
    rw [step_eq_hostWrite input]
    exact hostWrite_fault_iff.trans accessReg_misses_iff

/-! What a read returns (20_memory.md R59). -/

/-- A 32-bit read at a readable register's offset returns its word to the host. -/
theorem step_read {s : State} {r : WindowReg} {v : Word} {rest : List Input} (value : regValue r s = .ok v)
    (input : s.inputs = .read (regOffset r) 4 :: rest) : step s = .next ((s.advance rest).observe v) := by
  rw [step_eq_hostRead input]
  simp only [hostRead, busRead, accessReg_regOffset, value]

/-- Settles O8: each of the eight offsets is its register's, and the word beside it is the register's value. -/
theorem readReturnsTheRegisterAndChangesNothing : Obligations.ReadReturnsTheRegisterAndChangesNothing := by
  intro s rest p listed
  simp only [List.mem_cons, List.not_mem_nil, or_false] at listed
  rcases listed with rfl | rfl | rfl | rfl | rfl | rfl | rfl | rfl
  exacts [step_read (r := .status) rfl, step_read (r := .ctxcfg) rfl, step_read (r := .op0) rfl,
    step_read (r := .op1) rfl, step_read (r := .op2) rfl, step_read (r := .op3) rfl, step_read (r := .res0) rfl,
    step_read (r := .res1) rfl]

end Sys2Proof.Machine
end

section
/-! The command word of 30_encoding.md: the decoder and the encoder invert each other, the opcode map selects exactly
the words that decode, and which words are illegal. -/

namespace Sys2Proof.Machine

open Sys2Proof.Laws

/-! The fields of a word (30_encoding.md R70). -/

theorem word_eq_append_fields (w : Word) : w = argField w ++ (rsvField w ++ opcField w) := by
  unfold argField rsvField opcField
  rw [BitVec.extractLsb'_append_extractLsb'_eq_extractLsb', BitVec.extractLsb'_append_extractLsb'_eq_extractLsb']
  · exact BitVec.extractLsb'_eq_self.symm
  · rfl
  · rfl

theorem append_fields (arg : BitVec 16) (rsv opc : BitVec 8) :
    opcField (arg ++ (rsv ++ opc)) = opc ∧ rsvField (arg ++ (rsv ++ opc)) = rsv ∧
      argField (arg ++ (rsv ++ opc)) = arg :=
  ⟨(BitVec.extractLsb'_append_eq_of_add_le (by decide)).trans BitVec.extractLsb'_append_eq_right,
    (BitVec.extractLsb'_append_eq_of_add_le (by decide)).trans BitVec.extractLsb'_append_eq_left,
    BitVec.extractLsb'_append_eq_left⟩

/-- Two words are one when they agree in OPC, RSV and ARG. -/
theorem word_eq_iff_fields {v w : Word} :
    v = w ↔ opcField v = opcField w ∧ rsvField v = rsvField w ∧ argField v = argField w := by
  refine ⟨fun same => same ▸ ⟨rfl, rfl, rfl⟩, fun ⟨opc, rsv, arg⟩ => ?_⟩
  rw [word_eq_append_fields v, word_eq_append_fields w, opc, rsv, arg]

theorem decode_of_rsv {w : Word} (rsv : rsvField w ≠ 0) : decode w = .error .rsvNotZero :=
  if_pos rsv

theorem decode_of_rsv_zero {w : Word} (rsv : rsvField w = 0) :
    decode w = decodeOpc (opcField w).toNat (argField w) :=
  if_neg (not_not.mpr rsv)

theorem decode_eq_ok_iff_fields {w : Word} {i : Instr} :
    decode w = .ok i ↔ rsvField w = 0 ∧ decodeOpc (opcField w).toNat (argField w) = .ok i := by
  by_cases rsv : rsvField w = 0
  · rw [decode_of_rsv_zero rsv]
    exact (and_iff_right rsv).symm
  · simp only [decode_of_rsv rsv, rsv, reduceCtorEq, false_and]

/-! ARG of each command (30_encoding.md R72). -/

/-- ARG of a command's word, by its format: 0 for Z, t and i for S, c for C, w for W. -/
def argOf : Instr → BitVec 16
  | .sboxRead t i => 0#4 ++ (BitVec.ofNat 2 t ++ BitVec.ofNat 10 i)
  | .keyChunk c => BitVec.ofNat 16 c
  | .ksRead w => 0#14 ++ BitVec.ofNat 2 w
  | _ => 0

theorem encode_eq_commandWord (i : Instr) : encode i = commandWord (argOf i) (opcodeOf i) := by
  cases i <;> rfl

theorem encode_fields (i : Instr) :
    opcField (encode i) = opcodeOf i ∧ rsvField (encode i) = 0 ∧ argField (encode i) = argOf i := by
  rw [encode_eq_commandWord]
  exact commandWord_fields _ _

/-- A word is a command's when its fields are. -/
theorem encode_eq_iff_fields {i : Instr} {w : Word} :
    encode i = w ↔ opcodeOf i = opcField w ∧ 0 = rsvField w ∧ argOf i = argField w := by
  obtain ⟨opc, rsv, arg⟩ := encode_fields i
  rw [word_eq_iff_fields, opc, rsv, arg]

theorem wellFormed_sboxRead {t i : Nat} : (Instr.sboxRead t i).wellFormed = true ↔ t < 4 ∧ i < 1024 := by
  simp [Instr.wellFormed]

/-! Each format's decoder on the ARG of a command whose indices fit. -/

theorem decodeS_argOf {t i : Nat} (table : t < 4) (index : i < 1024) :
    decodeS (argOf (.sboxRead t i)) = .ok (.sboxRead t i) := by
  have fixed : (argOf (.sboxRead t i)).extractLsb' 12 4 = 0 := BitVec.extractLsb'_append_eq_left
  have tableField : (argOf (.sboxRead t i)).extractLsb' 10 2 = BitVec.ofNat 2 t :=
    (BitVec.extractLsb'_append_eq_of_add_le (by decide)).trans BitVec.extractLsb'_append_eq_left
  have indexField : (argOf (.sboxRead t i)).extractLsb' 0 10 = BitVec.ofNat 10 i :=
    (BitVec.extractLsb'_append_eq_of_add_le (by decide)).trans BitVec.extractLsb'_append_eq_right
  simp [decodeS, fixed, tableField, indexField, Nat.mod_eq_of_lt table, Nat.mod_eq_of_lt index]

theorem decodeC_argOf {c : Nat} (chunk : c < 65536) : decodeC (argOf (.keyChunk c)) = .ok (.keyChunk c) := by
  simp [decodeC, argOf, Nat.mod_eq_of_lt chunk]

theorem decodeW_argOf {w : Nat} (select : w < 4) : decodeW (argOf (.ksRead w)) = .ok (.ksRead w) := by
  have fixed : (argOf (.ksRead w)).extractLsb' 2 14 = 0 := BitVec.extractLsb'_append_eq_left
  have selectField : (argOf (.ksRead w)).extractLsb' 0 2 = BitVec.ofNat 2 w := BitVec.extractLsb'_append_eq_right
  simp [decodeW, fixed, selectField, Nat.mod_eq_of_lt select]

theorem decodeOpc_argOf {i : Instr} (fits : i.wellFormed = true) :
    decodeOpc (opcodeOf i).toNat (argOf i) = .ok i := by
  cases i with
  | sboxRead t k =>
    obtain ⟨table, index⟩ := wellFormed_sboxRead.mp fits
    exact decodeS_argOf table index
  | keyChunk c => exact decodeC_argOf (of_decide_eq_true fits)
  | ksRead w => exact decodeW_argOf (of_decide_eq_true fits)
  | _ => rfl

theorem decode_encode {i : Instr} (fits : i.wellFormed = true) : decode (encode i) = .ok i := by
  obtain ⟨opc, rsv, arg⟩ := encode_fields i
  rw [decode_of_rsv_zero rsv, opc, arg]
  exact decodeOpc_argOf fits

/-- Settles O1: the fields of the encoded word are those that the decoder takes apart. -/
theorem decodeOfEncodeIsTheCommand : Obligations.DecodeOfEncodeIsTheCommand :=
  fun _ => decode_encode

/-- Settles O59: the access is a write of the command's word to CMD, and that word decodes to the command. -/
theorem assembledCommandRunsThatCommand : Obligations.AssembledCommandRunsThatCommand :=
  fun i => ⟨fun misfit => if_neg (ne_true_of_eq_false misfit), fun fits => ⟨.write 0x00 4 (encode i), if_pos fits,
    fun s rest input => (stepRunsTheDecodedCommand s (encode i) rest input).1 i (decode_encode fits)⟩⟩

/-! What each format's decoder reads, and from which ARG. -/

/-- A format's decoder answers its command when its check of the fixed bits passes. -/
theorem check_eq_ok_iff {fixed : Prop} [Decidable fixed] {i j : Instr} {e : DecodeError} :
    (if fixed then .ok i else .error e) = Except.ok (ε := DecodeError) j ↔ fixed ∧ i = j := by
  split
  · next holds => simp [holds]
  · next fails => simp [fails]

section
variable {arg : BitVec 16} {i j : Instr} {opc : Nat}

/-- ARG[15:12] = 0, ARG[11:10] and ARG[9:0] make up ARG. -/
theorem argOf_sboxRead_fields (fixed : arg.extractLsb' 12 4 = 0#4) :
    argOf (.sboxRead (arg.extractLsb' 10 2).toNat (arg.extractLsb' 0 10).toNat) = arg := by
  simp only [argOf, BitVec.ofNat_toNat, BitVec.setWidth_eq]
  rw [← fixed, BitVec.extractLsb'_append_extractLsb'_eq_extractLsb',
    BitVec.extractLsb'_append_extractLsb'_eq_extractLsb']
  · exact BitVec.extractLsb'_eq_self
  · rfl
  · rfl

/-- ARG[15:2] = 0 and ARG[1:0] make up ARG. -/
theorem argOf_ksRead_field (fixed : arg.extractLsb' 2 14 = 0#14) :
    argOf (.ksRead (arg.extractLsb' 0 2).toNat) = arg := by
  simp only [argOf, BitVec.ofNat_toNat, BitVec.setWidth_eq]
  rw [← fixed, BitVec.extractLsb'_append_extractLsb'_eq_extractLsb']
  · exact BitVec.extractLsb'_eq_self
  · rfl

theorem decodeS_eq_ok (answer : decodeS arg = .ok j) :
    j.wellFormed = true ∧ (opcodeOf j).toNat = 0x05 ∧ argOf j = arg := by
  obtain ⟨fixed, rfl⟩ := check_eq_ok_iff.mp answer
  exact ⟨wellFormed_sboxRead.mpr ⟨BitVec.isLt _, BitVec.isLt _⟩, rfl, argOf_sboxRead_fields fixed⟩

theorem decodeC_eq_ok (answer : decodeC arg = .ok j) :
    j.wellFormed = true ∧ (opcodeOf j).toNat = 0x07 ∧ argOf j = arg := by
  cases answer
  exact ⟨decide_eq_true arg.isLt, rfl, by simp [argOf]⟩

theorem decodeW_eq_ok (answer : decodeW arg = .ok j) :
    j.wellFormed = true ∧ (opcodeOf j).toNat = 0x08 ∧ argOf j = arg := by
  obtain ⟨fixed, rfl⟩ := check_eq_ok_iff.mp answer
  exact ⟨decide_eq_true (BitVec.isLt _), rfl, argOf_ksRead_field fixed⟩

/-- A command that an OPC and an ARG decode to is well formed, and they are its own. The named cases are formats S, C, W
and the reserved opcodes; the others are format Z. -/
theorem decodeOpc_eq_ok (answer : decodeOpc opc arg = .ok j) :
    j.wellFormed = true ∧ (opcodeOf j).toNat = opc ∧ argOf j = arg := by
  unfold decodeOpc at answer
  split at answer
  case h_6 => exact decodeS_eq_ok answer
  case h_8 => exact decodeC_eq_ok answer
  case h_9 => exact decodeW_eq_ok answer
  case h_13 => cases answer
  all_goals
    obtain ⟨rfl, rfl⟩ := check_eq_ok_iff.mp answer
    exact ⟨rfl, rfl, rfl⟩

end

/-- Settles O2: the decoder gives each field back, and so the word. -/
theorem encodeOfDecodeIsTheWord : Obligations.EncodeOfDecodeIsTheWord := by
  intro w i answer
  obtain ⟨rsv, command⟩ := decode_eq_ok_iff_fields.mp answer
  obtain ⟨fits, opc, arg⟩ := decodeOpc_eq_ok command
  exact ⟨fits, encode_eq_iff_fields.mpr ⟨BitVec.eq_of_toNat_eq opc, rsv.symm, arg⟩⟩

/-! Which words are illegal (30_encoding.md R76). -/

/-- An OPC that is reserved, or an ARG bit that the opcode's format fixes to 0 and that is not 0. -/
def ReservedCommand (opc : Nat) (arg : BitVec 16) : Prop :=
  0x0C ≤ opc ∨
    (opc ∈ [0x00, 0x01, 0x02, 0x03, 0x04, 0x06, 0x09, 0x0A, 0x0B] ∧ arg ≠ 0) ∨
    (opc = 0x05 ∧ arg.extractLsb' 12 4 ≠ 0) ∨
    (opc = 0x08 ∧ arg.extractLsb' 2 14 ≠ 0)

/-- The words that R76 names, in the fields of R70. -/
def ReservedWord (w : Word) : Prop :=
  rsvField w ≠ 0 ∨ ReservedCommand (opcField w).toNat (argField w)

section
variable {arg : BitVec 16} {opc : Nat}

theorem check_isOk_iff {fixed : Prop} [Decidable fixed] {i : Instr} {e : DecodeError} :
    (∃ j, (if fixed then .ok i else .error e) = Except.ok (ε := DecodeError) j) ↔ fixed := by
  simp only [check_eq_ok_iff, exists_and_left, exists_eq', and_true]

/-- The named cases are formats S, C, W and the reserved opcodes; the others are format Z. -/
theorem decodeOpc_isOk_iff : (∃ i, decodeOpc opc arg = .ok i) ↔ ¬ReservedCommand opc arg := by
  unfold decodeOpc ReservedCommand
  split
  case h_6 => simp [decodeS, check_isOk_iff]
  case h_8 => simp [decodeC]
  case h_9 => simp [decodeW, check_isOk_iff]
  case h_13 =>
    have reserved : 0x0C ≤ opc := by grind
    simp [reserved]
  all_goals simp [decodeZ, check_isOk_iff]

end

theorem decode_isOk_iff {w : Word} : (∃ i, decode w = .ok i) ↔ ¬ReservedWord w := by
  simp only [decode_eq_ok_iff_fields, exists_and_left, decodeOpc_isOk_iff, ReservedWord, not_or, not_not]

theorem runCommand_of_reserved {w : Word} (reserved : ReservedWord w) (s : State) :
    runCommand w s = .next (s.raise .illegal) := by
  rcases decoded : decode w with e | i
  · exact runCommand_error decoded s
  · exact absurd reserved (decode_isOk_iff.mp ⟨i, decoded⟩)

/-- Settles O5: RSV is the decoder's first check. -/
theorem nonzeroRsvIsIllegalWhateverTheOpcode : Obligations.NonzeroRsvIsIllegalWhateverTheOpcode :=
  fun _ s rsv => runCommand_error (decode_of_rsv rsv) s

theorem extract_argField {w : Word} {start len : Nat} (inside : start + len ≤ 16) :
    (argField w).extractLsb' start len = w.extractLsb' (16 + start) len := by
  ext k hk
  simp [argField, show start + k < 16 by omega, Nat.add_assoc]

/-- ReservedWord in the bits of the word, as R76's cases are listed. -/
theorem reservedWord_iff_bits {w : Word} : ReservedWord w ↔
    0x0C ≤ (w.extractLsb' 0 8).toNat ∨ w.extractLsb' 8 8 ≠ 0 ∨
      ((w.extractLsb' 0 8).toNat ∈ [0x00, 0x01, 0x02, 0x03, 0x04, 0x06, 0x09, 0x0A, 0x0B] ∧
        w.extractLsb' 16 16 ≠ 0) ∨
      ((w.extractLsb' 0 8).toNat = 0x05 ∧ w.extractLsb' 28 4 ≠ 0) ∨
      ((w.extractLsb' 0 8).toNat = 0x08 ∧ w.extractLsb' 18 14 ≠ 0) := by
  have sArg : (argField w).extractLsb' 12 4 = w.extractLsb' 28 4 := extract_argField (by decide)
  have wArg : (argField w).extractLsb' 2 14 = w.extractLsb' 18 14 := extract_argField (by decide)
  rw [ReservedWord, ReservedCommand, sArg, wArg]
  exact or_left_comm

/-- Settles O4: by reservedWord_iff_bits, from what the decoder accepts. -/
theorem reservedWordsRaiseIllegalAndNothingElse : Obligations.ReservedWordsRaiseIllegalAndNothingElse :=
  fun _ => ⟨fun bits s => runCommand_of_reserved (reservedWord_iff_bits.mpr bits) s,
    fun bits => decode_isOk_iff.mpr (reservedWord_iff_bits.not.mpr bits)⟩

/-! The opcode map (30_encoding.md R75). -/

/-- The ARG bits that the command's format fixes to 0 (30_encoding.md R72). -/
def fixedArgBits : Instr → BitVec 16
  | .sboxRead _ _ => BitVec.allOnes 4 ++ 0#12
  | .keyChunk _ => 0
  | .ksRead _ => BitVec.allOnes 14 ++ 0#2
  | _ => BitVec.allOnes 16

/-- The row of a command: OPC and RSV are compared whole, and of ARG the fixed bits. -/
def rowOf (i : Instr) : OpcodeRow :=
  ⟨mnemonic i, commandWord 0 (opcodeOf i), fixedArgBits i ++ (BitVec.allOnes 8 ++ BitVec.allOnes 8)⟩

/-- One command of each row. -/
def rowCommands : List Instr :=
  [.nop, .gfMul, .gfExp7, .scatter, .sboxBuild, .sboxRead 0 0, .ctxConfig, .keyChunk 0, .ksRead 0, .roundF, .encrypt,
    .decrypt]

theorem opcodeMap_eq_rows : opcodeMap = rowCommands.map rowOf := rfl

theorem rowOf_mem (i : Instr) : rowOf i ∈ opcodeMap := by
  rw [opcodeMap_eq_rows, List.mem_map]
  cases i with
  | sboxRead t k => exact ⟨.sboxRead 0 0, by decide, rfl⟩
  | keyChunk c => exact ⟨.keyChunk 0, by decide, rfl⟩
  | ksRead w => exact ⟨.ksRead 0, by decide, rfl⟩
  | _ => exact ⟨_, by decide, rfl⟩

theorem eq_rowOf_of_mem {r : OpcodeRow} (listed : r ∈ opcodeMap) : ∃ i, rowOf i = r := by
  rw [opcodeMap_eq_rows, List.mem_map] at listed
  obtain ⟨i, -, row⟩ := listed
  exact ⟨i, row⟩

section
variable {i : Instr} {w : Word}

theorem and_rowOf_mask :
    w &&& (rowOf i).mask = (argField w &&& fixedArgBits i) ++ (rsvField w ++ opcField w) := by
  conv_lhs => rw [word_eq_append_fields w]
  refine BitVec.and_append.trans ?_
  rw [BitVec.and_append, BitVec.and_allOnes, BitVec.and_allOnes]

theorem rowOf_selects_iff : (rowOf i).selects w = true ↔
    opcField w = opcodeOf i ∧ rsvField w = 0 ∧ argField w &&& fixedArgBits i = 0 := by
  obtain ⟨opc, rsv, arg⟩ := append_fields (argField w &&& fixedArgBits i) (rsvField w) (opcField w)
  obtain ⟨opcode, zeroRsv, zeroArg⟩ := commandWord_fields 0 (opcodeOf i)
  rw [OpcodeRow.selects, beq_iff_eq, and_rowOf_mask, word_eq_iff_fields, opc, rsv, arg]
  rw [rowOf, opcode, zeroRsv, zeroArg]

/-- Fixed bits on top of free ones. -/
theorem append_and_allOnes_append_zero {n m : Nat} (high : BitVec n) (low : BitVec m) :
    (high ++ low) &&& (BitVec.allOnes n ++ 0#m) = high ++ 0#m := by
  rw [BitVec.and_append, BitVec.and_allOnes, BitVec.and_zero]

theorem argOf_and_fixedArgBits (i : Instr) : argOf i &&& fixedArgBits i = 0 := by
  cases i with
  | sboxRead t k => exact append_and_allOnes_append_zero 0#4 _
  | keyChunk c => exact BitVec.and_zero
  | ksRead w => exact append_and_allOnes_append_zero 0#14 _
  | _ => rfl

/-- Masking with the fixed bits keeps them, so none of them is 1. -/
theorem extract_eq_zero_of_and_fixed {arg mask : BitVec 16} {n m : Nat} (fixed : arg &&& mask = 0)
    (keeps : mask.extractLsb' m n = BitVec.allOnes n) : arg.extractLsb' m n = 0 := by
  have masked : (arg &&& mask).extractLsb' m n = arg.extractLsb' m n := by
    rw [BitVec.extractLsb'_and, keeps, BitVec.and_allOnes]
  rw [← masked, fixed]
  simp

theorem not_reservedCommand_of_fixed {arg : BitVec 16} (fixed : arg &&& fixedArgBits i = 0) :
    ¬ReservedCommand (opcodeOf i).toNat arg := by
  cases i with
  | sboxRead t k =>
    have high : arg.extractLsb' 12 4 = 0 := extract_eq_zero_of_and_fixed fixed BitVec.extractLsb'_append_eq_left
    simp [ReservedCommand, opcodeOf, high]
  | keyChunk c => simp [ReservedCommand, opcodeOf]
  | ksRead w =>
    have high : arg.extractLsb' 2 14 = 0 := extract_eq_zero_of_and_fixed fixed BitVec.extractLsb'_append_eq_left
    simp [ReservedCommand, opcodeOf, high]
  | _ =>
    have zero : arg = 0 := BitVec.and_allOnes.symm.trans fixed
    simp [ReservedCommand, opcodeOf, zero]

theorem rowOf_selects_of_decode (decoded : decode w = .ok i) : (rowOf i).selects w = true := by
  obtain ⟨-, rfl⟩ := encodeOfDecodeIsTheWord w i decoded
  obtain ⟨opc, rsv, arg⟩ := encode_fields i
  exact rowOf_selects_iff.mpr ⟨opc, rsv, arg ▸ argOf_and_fixedArgBits i⟩

theorem decode_isOk_of_selects (selected : (rowOf i).selects w = true) : ∃ j, decode w = .ok j := by
  obtain ⟨opc, rsv, fixed⟩ := rowOf_selects_iff.mp selected
  refine decode_isOk_iff.mpr fun reserved => ?_
  rcases reserved with nonzero | command
  · exact nonzero rsv
  · exact not_reservedCommand_of_fixed fixed (opc ▸ command)

end

/-- A row that selects a word holds the word's OPC. -/
theorem pattern_of_selects {r : OpcodeRow} {w : Word} (listed : r ∈ opcodeMap) (selected : r.selects w = true) :
    r.pattern = commandWord 0 (opcField w) := by
  obtain ⟨i, rfl⟩ := eq_rowOf_of_mem listed
  exact congrArg (commandWord 0) (rowOf_selects_iff.mp selected).1.symm

theorem opcodeMap_patterns_distinct : opcodeMap.Pairwise (·.pattern ≠ ·.pattern) := by
  decide

/-- Settles O3: a selected row holds the word's OPC, and the masks check the bits that the decoder checks. -/
theorem opcodeMapAgreesWithDecoder : Obligations.OpcodeMapAgreesWithDecoder := by
  refine ⟨opcodeMap_patterns_distinct.imp_of_mem ?disjoint, fun w i decoded => ?legal,
    fun w e decoded r listed => ?illegal⟩
  case disjoint =>
    intro r q rListed qListed distinct w ⟨rSelected, qSelected⟩
    exact distinct ((pattern_of_selects rListed rSelected).trans (pattern_of_selects qListed qSelected).symm)
  case legal => exact ⟨rowOf i, rowOf_mem i, rowOf_selects_of_decode decoded, rfl⟩
  case illegal =>
    obtain ⟨i, rfl⟩ := eq_rowOf_of_mem listed
    refine Bool.eq_false_of_not_eq_true fun selected => ?_
    obtain ⟨j, legal⟩ := decode_isOk_of_selects selected
    cases decoded.symm.trans legal

/-- Settles O6: the decoder evaluates on each word. -/
theorem wordsOfTheOpcodeMapDecode : Obligations.WordsOfTheOpcodeMapDecode :=
  ⟨rfl, rfl, rfl, rfl, rfl, rfl, rfl, rfl, rfl, rfl, rfl⟩

end Sys2Proof.Machine
end

section
/-! Galois-field arithmetic (40_gf_arith.md): the loop of gfMultiply is over after eight passes, and it computes the
product of polynomials modulo the modulus. The argument runs in the ring of polynomials over GF(2) modulo m(x), where
one pass keeps the value of `res + aa * bb`. -/

namespace Sys2Proof.Machine

open Polynomial

/-! The polynomial of a bit vector (40_gf_arith.md R94, law 3). -/

section
variable {n : Nat}

theorem bitPolynomial_coeff (v : BitVec n) (k : Nat) :
    (bitPolynomial v).coeff k = if v.getLsbD k = true then 1 else 0 := by
  have coeff_term (j : Nat) : (if v.getLsbD j = true then (X : (ZMod 2)[X]) ^ j else 0).coeff k =
      if k = j then (if v.getLsbD j = true then 1 else 0) else 0 := by
    split <;> simp [coeff_X_pow]
  simp only [bitPolynomial, finsetSum_coeff, coeff_term, Finset.sum_ite_eq, Finset.mem_range]
  by_cases inside : k < n
  · rw [if_pos inside]
  · rw [if_neg inside, BitVec.getLsbD_of_ge v k (Nat.le_of_not_lt inside)]
    rfl

theorem bitPolynomial_zero : bitPolynomial (0 : BitVec n) = 0 := by
  ext k
  simp [bitPolynomial_coeff]

/-- XOR of bit vectors is addition over GF(2). -/
theorem bitPolynomial_xor (v w : BitVec n) : bitPolynomial (v ^^^ w) = bitPolynomial v + bitPolynomial w := by
  ext k
  rw [coeff_add, bitPolynomial_coeff, bitPolynomial_coeff, bitPolynomial_coeff, BitVec.getLsbD_xor]
  cases v.getLsbD k <;> cases w.getLsbD k <;> decide

/-- A change of width that drops no 1 keeps the polynomial. -/
theorem bitPolynomial_setWidth {m : Nat} {v : BitVec n} (fits : ∀ k, m ≤ k → v.getLsbD k = false) :
    bitPolynomial (v.setWidth m) = bitPolynomial v := by
  ext k
  rw [bitPolynomial_coeff, bitPolynomial_coeff, BitVec.getLsbD_setWidth]
  by_cases inside : k < m
  · simp [inside]
  · simp [fits k (Nat.le_of_not_lt inside)]

/-- A left shift that drops no 1 multiplies by x. -/
theorem bitPolynomial_shiftLeft_one {v : BitVec (n + 1)} (top : v.getLsbD n = false) :
    bitPolynomial (v <<< 1) = X * bitPolynomial v := by
  ext k
  cases k with
  | zero => simp [bitPolynomial_coeff]
  | succ k =>
    rw [coeff_X_mul, bitPolynomial_coeff, bitPolynomial_coeff]
    rcases Nat.lt_or_ge k n with inside | outside
    · simp [inside, -BitVec.getLsbD_eq_getElem]
    · have clear : v.getLsbD k = false := by
        rcases Nat.eq_or_lt_of_le outside with rfl | beyond
        · exact top
        · exact BitVec.getLsbD_of_ge v k beyond
      simp [clear]

/-- A polynomial is its constant coefficient and x times the rest. -/
theorem bitPolynomial_eq_low_add_shiftRight (v : BitVec n) :
    bitPolynomial v = (if v.getLsbD 0 = true then (1 : (ZMod 2)[X]) else 0) + X * bitPolynomial (v >>> 1) := by
  ext k
  cases k with
  | zero => rw [coeff_add, coeff_X_mul_zero, bitPolynomial_coeff]; split <;> simp
  | succ k =>
    have low : (if v.getLsbD 0 = true then (1 : (ZMod 2)[X]) else 0).coeff (k + 1) = 0 := by
      split <;> simp [coeff_one]
    rw [coeff_add, low, zero_add, coeff_X_mul, bitPolynomial_coeff, bitPolynomial_coeff, BitVec.getLsbD_ushiftRight,
      Nat.add_comm]

theorem bitPolynomial_degree_lt (v : BitVec n) : (bitPolynomial v).degree < n := by
  rw [degree_lt_iff_coeff_zero]
  intro k outside
  simp [bitPolynomial_coeff, BitVec.getLsbD_of_ge v k outside]

theorem bitPolynomial_natDegree_le (v : BitVec (n + 1)) : (bitPolynomial v).natDegree ≤ n :=
  natDegree_le_of_degree_le (Order.le_of_lt_succ (bitPolynomial_degree_lt v))

theorem bitPolynomial_monic {v : BitVec (n + 1)} (top : v.getLsbD n = true) : (bitPolynomial v).Monic :=
  monic_of_natDegree_le_of_coeff_eq_one n (bitPolynomial_natDegree_le v) (by simp [bitPolynomial_coeff, top])

/-- A polynomial with a top bit has larger degree than every shorter one. -/
theorem bitPolynomial_degree_lt_of_top (r : BitVec n) {m : BitVec (n + 1)} (top : m.getLsbD n = true) :
    (bitPolynomial r).degree < (bitPolynomial m).degree :=
  (bitPolynomial_degree_lt r).trans_le (le_degree_of_ne_zero (by simp [bitPolynomial_coeff, top]))

end

/-! The ring of polynomials modulo m(x), in which a result of gfMultiply is read. -/

section
variable {n : Nat} (m : Modulus)

/-- The class of v(x) modulo m(x). -/
noncomputable def residue (v : BitVec n) : AdjoinRoot (bitPolynomial m) :=
  AdjoinRoot.mk (bitPolynomial m) (bitPolynomial v)

theorem residue_zero : residue m (0 : BitVec n) = 0 := by
  rw [residue, bitPolynomial_zero, map_zero]

theorem residue_modulus : residue m m = 0 :=
  AdjoinRoot.mk_self

theorem residue_xor (v w : BitVec n) : residue m (v ^^^ w) = residue m v + residue m w := by
  rw [residue, bitPolynomial_xor, map_add]
  rfl

theorem residue_setWidth {k : Nat} {v : BitVec n} (fits : ∀ j, k ≤ j → v.getLsbD j = false) :
    residue m (v.setWidth k) = residue m v :=
  congrArg (AdjoinRoot.mk _) (bitPolynomial_setWidth fits)

theorem residue_shiftLeft_one {v : BitVec (n + 1)} (top : v.getLsbD n = false) :
    residue m (v <<< 1) = AdjoinRoot.root (bitPolynomial m) * residue m v := by
  rw [residue, bitPolynomial_shiftLeft_one top, map_mul, AdjoinRoot.mk_X]
  rfl

theorem residue_eq_low_add_shiftRight (v : BitVec n) :
    residue m v = (if v.getLsbD 0 = true then (1 : AdjoinRoot (bitPolynomial m)) else 0) +
      AdjoinRoot.root (bitPolynomial m) * residue m (v >>> 1) := by
  rw [residue, bitPolynomial_eq_low_add_shiftRight v, map_add, map_mul, AdjoinRoot.mk_X, apply_ite (AdjoinRoot.mk _),
    map_one, map_zero]
  rfl

/-- A byte is the remainder by m(x) of each polynomial in its class, since m(x) has degree 8. -/
theorem bitPolynomial_eq_modByMonic {m : Modulus} (monic : m.getLsbD 8 = true) {r : Byte} {p : (ZMod 2)[X]}
    (same : residue m r = AdjoinRoot.mk (bitPolynomial m) p) : bitPolynomial r = p.modByMonic (bitPolynomial m) := by
  have reduced : (bitPolynomial r).modByMonic (bitPolynomial m) = bitPolynomial r :=
    (modByMonic_eq_self_iff (bitPolynomial_monic monic)).mpr (bitPolynomial_degree_lt_of_top r monic)
  rw [← reduced]
  exact modByMonic_eq_of_dvd_sub (bitPolynomial_monic monic) (AdjoinRoot.mk_eq_mk.mp same)

end

/-! One pass of the loop (40_gf_arith.md R90; R94, law 1). -/

section
variable {m aa : Modulus} {res bb : Byte}

/-- `aa` below 256 fits in a byte. -/
theorem modulus_fits_byte (below : aa.getLsbD 8 = false) (k : Nat) (high : 8 ≤ k) : aa.getLsbD k = false := by
  rcases Nat.eq_or_lt_of_le high with rfl | beyond
  · exact below
  · exact BitVec.getLsbD_of_ge aa k beyond

/-- A 9-bit value reaches 256 when its bit 8 is set. -/
theorem modulus_ge_256_iff (v : Modulus) : 256 ≤ v.toNat ↔ v.getLsbD 8 = true := by
  rw [← BitVec.msb_eq_getLsbD_last v, BitVec.msb_eq_decide, decide_eq_true_iff]

theorem gfShiftReduce_of_top (top : (aa <<< 1).getLsbD 8 = true) (m : Modulus) :
    gfShiftReduce aa m = (aa <<< 1) ^^^ m :=
  if_pos ((modulus_ge_256_iff _).mpr top)

theorem gfShiftReduce_of_not_top (top : (aa <<< 1).getLsbD 8 = false) (m : Modulus) : gfShiftReduce aa m = aa <<< 1 :=
  if_neg fun reached => Bool.noConfusion (top.symm.trans ((modulus_ge_256_iff _).mp reached))

/-- The reduction clears bit 8 again, for the modulus has it set. -/
theorem gfShiftReduce_below (monic : m.getLsbD 8 = true) (aa : Modulus) : (gfShiftReduce aa m).getLsbD 8 = false := by
  cases top : (aa <<< 1).getLsbD 8 with
  | true => rw [gfShiftReduce_of_top top, BitVec.getLsbD_xor, top, monic, Bool.xor_self]
  | false => rw [gfShiftReduce_of_not_top top, top]

/-- A pass multiplies `aa` by x modulo m(x). -/
theorem residue_gfShiftReduce (below : aa.getLsbD 8 = false) :
    residue m (gfShiftReduce aa m) = AdjoinRoot.root (bitPolynomial m) * residue m aa := by
  cases top : (aa <<< 1).getLsbD 8 with
  | true => rw [gfShiftReduce_of_top top, residue_xor, residue_modulus, add_zero, residue_shiftLeft_one m below]
  | false => rw [gfShiftReduce_of_not_top top, residue_shiftLeft_one m below]

/-- A pass adds to the result the product of `aa` and the low bit of `bb`. -/
theorem residue_gfAccumulate (below : aa.getLsbD 8 = false) :
    residue m (gfAccumulate res aa bb) = residue m res + residue m aa * (if bb.getLsbD 0 = true then 1 else 0) := by
  unfold gfAccumulate
  split
  · rw [residue_xor, residue_setWidth m (modulus_fits_byte below), mul_one]
  · rw [mul_zero, add_zero]

end

/-! The loop (40_gf_arith.md R90; R94, laws 2 and 3). -/

theorem gfMultiplyLoop_zero (m aa : Modulus) (res : Byte) (fuel : Nat) : gfMultiplyLoop m fuel res aa 0 = res := by
  cases fuel <;> rfl

theorem gfMultiplyLoop_succ {bb : Byte} (more : bb ≠ 0) (m aa : Modulus) (res : Byte) (fuel : Nat) :
    gfMultiplyLoop m (fuel + 1) res aa bb =
      gfMultiplyLoop m fuel (gfAccumulate res aa bb) (gfShiftReduce aa m) (bb >>> 1) :=
  if_neg more

/-- A `bb` that n + 1 shifts empty is emptied by n after the shift of one pass. -/
theorem emptied_after_pass {bb : Byte} {n : Nat} (emptied : bb >>> (n + 1) = 0) : bb >>> 1 >>> n = 0 := by
  rw [← BitVec.shiftRight_add, Nat.add_comm, emptied]

/-- Once the passes allowed have emptied `bb`, further ones change nothing. -/
theorem gfMultiplyLoop_add_fuel (m : Modulus) (fuel : Nat) {n : Nat} {aa : Modulus} {res bb : Byte}
    (emptied : bb >>> n = 0) : gfMultiplyLoop m (n + fuel) res aa bb = gfMultiplyLoop m n res aa bb := by
  induction n generalizing aa res bb with
  | zero =>
    obtain rfl : bb = 0 := emptied
    rw [gfMultiplyLoop_zero, gfMultiplyLoop_zero]
  | succ n ih =>
    by_cases finished : bb = 0
    · rw [finished, gfMultiplyLoop_zero, gfMultiplyLoop_zero]
    · rw [Nat.succ_add, gfMultiplyLoop_succ finished, gfMultiplyLoop_succ finished, ih (emptied_after_pass emptied)]

/-- The invariant of the loop: modulo m(x) it adds the product of `aa` and `bb` to `res`, if its passes empty `bb`. -/
theorem residue_gfMultiplyLoop {m : Modulus} (monic : m.getLsbD 8 = true) {n : Nat} {aa : Modulus} {res bb : Byte}
    (emptied : bb >>> n = 0) (below : aa.getLsbD 8 = false) :
    residue m (gfMultiplyLoop m n res aa bb) = residue m res + residue m aa * residue m bb := by
  induction n generalizing aa res bb with
  | zero =>
    obtain rfl : bb = 0 := emptied
    rw [gfMultiplyLoop_zero, residue_zero, mul_zero, add_zero]
  | succ n ih =>
    by_cases finished : bb = 0
    · rw [finished, gfMultiplyLoop_zero, residue_zero, mul_zero, add_zero]
    · rw [gfMultiplyLoop_succ finished, ih (emptied_after_pass emptied) (gfShiftReduce_below monic aa),
        residue_gfAccumulate below, residue_gfShiftReduce below, residue_eq_low_add_shiftRight m bb]
      ring

/-- Eight shifts empty a byte. -/
theorem byte_shiftRight_eight (bb : Byte) : bb >>> 8 = 0 :=
  BitVec.ushiftRight_eq_zero (Nat.le_refl 8)

/-- Settles O30: eight passes shift every bit out of `bb`. -/
theorem gfLoopIsOverAfterEightPasses : Obligations.GfLoopIsOverAfterEightPasses :=
  fun fuel m _ _ bb => gfMultiplyLoop_add_fuel m fuel (byte_shiftRight_eight bb)

/-! The products (40_gf_arith.md R91; R94, laws 3 and 4). -/

theorem residue_gfMultiply {m : Modulus} (monic : m.getLsbD 8 = true) (a b : Byte) :
    residue m (gfMultiply a b m) = residue m a * residue m b := by
  have below : (a.setWidth 9).getLsbD 8 = false := by simp
  have widened : residue m (a.setWidth 9) = residue m a :=
    residue_setWidth m fun k high => BitVec.getLsbD_of_ge a k (by omega)
  rw [gfMultiply, residue_gfMultiplyLoop monic (byte_shiftRight_eight b) below, residue_zero, zero_add, widened]

theorem residue_gfExp7 {m : Modulus} (monic : m.getLsbD 8 = true) (b : Byte) :
    residue m (gfExp7 b m) = residue m b ^ 7 := by
  by_cases zero : b = 0
  · subst zero
    rw [gfExp7, if_pos rfl, residue_zero, zero_pow (by decide)]
  · simp only [gfExp7, if_neg zero, residue_gfMultiply monic]
    ring

/-! The commands (40_gf_arith.md R92, R93). -/

/-- The modulus of GF.MUL and GF.EXP7 has bit 8 of OP2. -/
theorem gfModulus_top (s : State) : s.gfModulus.getLsbD 8 = s.op2.getLsbD 8 := by
  simp [State.gfModulus]

section
variable {s : State} (monic : s.gfModulus.getLsbD 8 = true)
include monic

theorem exec_gfMul_completes :
    exec .gfMul s = .next (s.setRes0 ((gfMultiply s.gfByte0 s.gfByte1 s.gfModulus).setWidth 32)).done :=
  ((execGfMul_cases s).resolve_left fun ⟨unset, _⟩ => Bool.noConfusion (unset.symm.trans monic)).2

theorem exec_gfExp7_completes :
    exec .gfExp7 s = .next (s.setRes0 ((gfExp7 s.gfByte0 s.gfModulus).setWidth 32)).done :=
  ((execGfExp7_cases s).resolve_left fun ⟨unset, _⟩ => Bool.noConfusion (unset.symm.trans monic)).2

end

/-- Settles O28: modulo m(x) the result is the product, and it is below degree 8. -/
theorem gfMulIsThePolynomialProduct : Obligations.GfMulIsThePolynomialProduct := by
  intro s top
  have monic : s.gfModulus.getLsbD 8 = true := (gfModulus_top s).trans top
  refine ⟨gfMultiply s.gfByte0 s.gfByte1 s.gfModulus, exec_gfMul_completes monic,
    bitPolynomial_eq_modByMonic monic ?_⟩
  rw [residue_gfMultiply monic, map_mul]
  rfl

/-- Settles O29: modulo m(x) the result is the seventh power, and it is below degree 8. -/
theorem gfExp7IsTheSeventhPower : Obligations.GfExp7IsTheSeventhPower := by
  intro s top
  have monic : s.gfModulus.getLsbD 8 = true := (gfModulus_top s).trans top
  refine ⟨gfExp7 s.gfByte0 s.gfModulus, exec_gfExp7_completes monic, bitPolynomial_eq_modByMonic monic ?_⟩
  rw [residue_gfExp7 monic, map_pow]
  rfl

end Sys2Proof.Machine
end

section
/-! The bit scatter (41_scatter.md): bit j of scatter32 x is the source bit INV[j] of x. That it is a permutation of the
bits, linear, and keeps each table of 42_sbox.md in its lane follows from this one equation. -/

namespace Sys2Proof.Machine

/-! INV, the inverse map (41_scatter.md R103). -/

/-- INV[j], the source bit of output bit j. -/
def sourceBit (j : Nat) : Nat := scatterSource[j]?.getD 0

theorem map_sourceBit_range : (List.range 32).map sourceBit = scatterSource := rfl

theorem scatterSource_perm : scatterSource.Perm (List.range 32) := by decide

theorem sourceBit_lt : ∀ j < 32, sourceBit j < 32 := by decide

/-- Every source bit goes somewhere. -/
theorem exists_sourceBit_eq {i : Nat} (inside : i < 32) : ∃ j < 32, sourceBit j = i := by
  have listed : i ∈ (List.range 32).map sourceBit := by
    rw [map_sourceBit_range, scatterSource_perm.mem_iff, List.mem_range]
    exact inside
  simpa using listed

/-- PBOX[i] is the one bit that INV sends back to i (41_scatter.md R102). -/
theorem pbox_getLsbD : ∀ j < 32, ∀ i < 32, (pbox i).getLsbD j = decide (i = sourceBit j) := by decide

/-! The fixed form of the scatter, bit by bit (41_scatter.md R100). -/

theorem scatterBit_getLsbD (x res : Word) (i j : Nat) :
    (scatterBit x res i).getLsbD j = (res.getLsbD j || (x.getLsbD i && (pbox i).getLsbD j)) := by
  unfold scatterBit
  cases x.getLsbD i <;> simp

theorem foldl_scatterBit_getLsbD (x : Word) (j : Nat) (l : List Nat) (res : Word) :
    (l.foldl (scatterBit x) res).getLsbD j =
      (res.getLsbD j || l.any fun i => x.getLsbD i && (pbox i).getLsbD j) := by
  induction l generalizing res with
  | nil => simp
  | cons i l ih => rw [List.foldl_cons, ih, scatterBit_getLsbD, List.any_cons, Bool.or_assoc]

/-- Bit j of the scatter is the one source bit that PBOX sends there. -/
theorem scatter32_getLsbD (x : Word) {j : Nat} (inside : j < 32) :
    (scatter32 x).getLsbD j = x.getLsbD (sourceBit j) := by
  have zero : (0 : Word).getLsbD j = false := BitVec.getLsbD_zero
  rw [scatter32, foldl_scatterBit_getLsbD, zero, Bool.false_or, Bool.eq_iff_iff, List.any_eq_true]
  constructor
  · rintro ⟨i, listed, sent⟩
    rw [pbox_getLsbD j inside i (List.mem_range.mp listed), Bool.and_eq_true, decide_eq_true_iff] at sent
    obtain ⟨set, rfl⟩ := sent
    exact set
  · intro set
    have source := sourceBit_lt j inside
    exact ⟨sourceBit j, List.mem_range.mpr source, by simp [pbox_getLsbD j inside _ source, set]⟩

/-- Settles O31: SCATTER writes scatter32 of OP0. -/
theorem scatterMovesEachBitToItsPlace : Obligations.ScatterMovesEachBitToItsPlace :=
  fun s => ⟨scatter32 s.op0, finish_eq _, fun _ inside => scatter32_getLsbD s.op0 inside⟩

/-! The properties of 41_scatter.md R103. -/

theorem scatter32_xor (x y : Word) : scatter32 (x ^^^ y) = scatter32 x ^^^ scatter32 y :=
  BitVec.eq_of_getLsbD_eq fun j inside => by simp only [BitVec.getLsbD_xor, scatter32_getLsbD _ inside]

theorem scatter32_and (x y : Word) : scatter32 (x &&& y) = scatter32 x &&& scatter32 y :=
  BitVec.eq_of_getLsbD_eq fun j inside => by simp only [BitVec.getLsbD_and, scatter32_getLsbD _ inside]

/-- Two words with one scatter agree in every source bit. -/
theorem scatter32_injective : Function.Injective scatter32 := by
  intro x y same
  refine BitVec.eq_of_getLsbD_eq fun i inside => ?_
  obtain ⟨j, jInside, rfl⟩ := exists_sourceBit_eq inside
  rw [← scatter32_getLsbD x jInside, same, scatter32_getLsbD y jInside]

/-- The count over the output bits is the count over the source bits in the order of INV. -/
theorem setBits_scatter32 (x : Word) : setBits (scatter32 x) = setBits x :=
  calc setBits (scatter32 x)
    _ = (List.range 32).countP ((fun i => x.getLsbD i) ∘ sourceBit) :=
      List.countP_congr fun j listed => by
        rw [scatter32_getLsbD x (List.mem_range.mp listed)]
        rfl
    _ = scatterSource.countP (fun i => x.getLsbD i) := by rw [← List.countP_map, map_sourceBit_range]
    _ = setBits x := scatterSource_perm.countP_eq _

/-- Settles O32: an injective map of the finitely many words is bijective. -/
theorem scatterIsALinearPermutationOfBits : Obligations.ScatterIsALinearPermutationOfBits :=
  ⟨scatterSource_perm, fun x _ inside => scatter32_getLsbD x inside,
    Finite.injective_iff_bijective.mp scatter32_injective, setBits_scatter32, scatter32_xor, by decide, by decide⟩

/-! The loop as the document writes it (41_scatter.md R100). -/

/-- Positions where x has no bit add nothing. -/
theorem foldl_scatterBit_of_clear {x : Word} {l : List Nat} (clear : ∀ i ∈ l, x.getLsbD i = false) (res : Word) :
    l.foldl (scatterBit x) res = res := by
  refine BitVec.eq_of_getLsbD_eq fun j _ => ?_
  have nothing : (l.any fun i => x.getLsbD i && (pbox i).getLsbD j) = false :=
    List.any_eq_false.mpr fun i listed => by simp [clear i listed]
  rw [foldl_scatterBit_getLsbD, nothing, Bool.or_false]

theorem getLsbD_of_shiftRight_eq_zero {x : Word} {pos i : Nat} (emptied : x >>> pos = 0) (above : pos ≤ i) :
    x.getLsbD i = false := by
  have bit : (x >>> pos).getLsbD (i - pos) = false := by rw [emptied]; exact BitVec.getLsbD_zero
  rwa [BitVec.getLsbD_ushiftRight, Nat.add_sub_cancel' above] at bit

/-- The invariant of the loop: at position pos it holds x shifted by pos, and what it still adds are the positions from
pos on. An early end adds nothing because x has no bit left there. -/
theorem scatterLoop_shiftRight (x : Word) (fuel pos : Nat) (res : Word) :
    scatterLoop fuel (x >>> pos) pos res = (List.range' pos fuel).foldl (scatterBit x) res := by
  induction fuel generalizing pos res with
  | zero => rfl
  | succ fuel ih =>
    rw [scatterLoop]
    split
    · next emptied =>
      exact (foldl_scatterBit_of_clear
        (fun i listed => getLsbD_of_shiftRight_eq_zero emptied (List.mem_range'_1.mp listed).1) res).symm
    · have low : (x >>> pos).getLsbD 0 = x.getLsbD pos := BitVec.getLsbD_ushiftRight x pos 0
      rw [low, ← BitVec.shiftRight_add, ih, List.range'_succ, List.foldl_cons]
      rfl

/-- Settles O33: the loop folds over the positions 0 .. 31 and over `fuel` more, where a word has no bits. -/
theorem scatterLoopEqualsItsFixedForm : Obligations.ScatterLoopEqualsItsFixedForm := by
  intro x fuel
  have beyond : ∀ i ∈ List.range' 32 fuel, x.getLsbD i = false :=
    fun i listed => BitVec.getLsbD_of_ge x i (List.mem_range'_1.mp listed).1
  calc scatterLoop (32 + fuel) x 0 0
    _ = (List.range' 0 (32 + fuel)).foldl (scatterBit x) 0 := scatterLoop_shiftRight x (32 + fuel) 0 0
    _ = (List.range' 32 fuel).foldl (scatterBit x) (scatter32 x) := by
      rw [← List.range'_append_1, List.foldl_append, ← List.range_eq_range']
      rfl
    _ = scatter32 x := foldl_scatterBit_of_clear beyond _

/-! The lanes of the tables (41_scatter.md R104; 42_sbox.md R116). -/

/-- The source byte of table t is byte 3 - t (41_scatter.md R104). -/
theorem scatter32_byte : ∀ n < 4, scatter32 ((0xFF : Word) <<< (8 * (3 - n))) = lane n := by decide

theorem lane_setBits : ∀ n < 4, setBits (lane n) = 8 := by decide

theorem lanes_disjoint : ∀ n < 4, ∀ k < 4, n ≠ k → lane n &&& lane k = 0 := by decide

/-- A byte in its place of a word has its bits in that place. -/
theorem byte_in_place (b : Byte) (k : Nat) :
    (b.setWidth 32 <<< k) &&& ((0xFF : Word) <<< k) = b.setWidth 32 <<< k := by
  have low : b.setWidth 32 &&& (0xFF : Word) = b.setWidth 32 := by
    rw [show (0xFF : Word) = (BitVec.allOnes 8).setWidth 32 from rfl, ← BitVec.setWidth_and, BitVec.and_allOnes]
  rw [← BitVec.shiftLeft_and_distrib, low]

theorem sboxEntry_and_lane {n : Nat} (table : n < 4) (i : Nat) : sboxEntry n i &&& lane n = sboxEntry n i := by
  rw [← scatter32_byte n table, sboxEntry, ← scatter32_and, byte_in_place]

theorem sboxEntry_outside_lane {n : Nat} (table : n < 4) (i : Nat) : sboxEntry n i &&& ~~~lane n = 0 := by
  rw [← sboxEntry_and_lane table i, BitVec.and_assoc, BitVec.and_not_self]
  exact BitVec.and_zero

/-- Entries of different tables share no bit, as their lanes share none. -/
theorem sboxEntries_disjoint {n k : Nat} (hn : n < 4) (hk : k < 4) (different : n ≠ k) (a b : Nat) :
    sboxEntry n a &&& sboxEntry k b = 0 :=
  calc sboxEntry n a &&& sboxEntry k b
    _ = (sboxEntry n a &&& lane n) &&& (sboxEntry k b &&& lane k) := by
      rw [sboxEntry_and_lane hn, sboxEntry_and_lane hk]
    _ = (sboxEntry n a &&& sboxEntry k b) &&& (lane n &&& lane k) := by ac_rfl
    _ = 0 := by rw [lanes_disjoint n hn k hk different]; exact BitVec.and_zero

theorem or_eq_xor_of_and_eq_zero {x y : Word} (disjoint : x &&& y = 0) : x ||| y = x ^^^ y := by
  refine BitVec.eq_of_getLsbD_eq fun i _ => ?_
  have apart : (x &&& y).getLsbD i = false := by rw [disjoint]; exact BitVec.getLsbD_zero
  rw [BitVec.getLsbD_and] at apart
  rw [BitVec.getLsbD_or, BitVec.getLsbD_xor]
  cases xBit : x.getLsbD i
  · simp
  · simpa [xBit] using apart

/-- What ROUND.F ORs together it could as well XOR (42_sbox.md R116). -/
theorem sboxEntries_or_eq_xor (a b c d : Nat) :
    sboxEntry 0 a ||| sboxEntry 1 b ||| sboxEntry 2 c ||| sboxEntry 3 d =
      sboxEntry 0 a ^^^ sboxEntry 1 b ^^^ sboxEntry 2 c ^^^ sboxEntry 3 d := by
  have two : sboxEntry 0 a &&& sboxEntry 1 b = 0 :=
    sboxEntries_disjoint (by decide) (by decide) (by decide) a b
  have three : (sboxEntry 0 a ||| sboxEntry 1 b) &&& sboxEntry 2 c = 0 := by
    rw [BitVec.and_or_distrib_right, sboxEntries_disjoint, sboxEntries_disjoint] <;> decide
  have four : (sboxEntry 0 a ||| sboxEntry 1 b ||| sboxEntry 2 c) &&& sboxEntry 3 d = 0 := by
    rw [BitVec.and_or_distrib_right, BitVec.and_or_distrib_right, sboxEntries_disjoint, sboxEntries_disjoint,
      sboxEntries_disjoint] <;> decide
  rw [or_eq_xor_of_and_eq_zero four, or_eq_xor_of_and_eq_zero three, or_eq_xor_of_and_eq_zero two]

/-- Settles O36: an entry is the scatter of a byte in place 3 - t, so it lies in LANE[t]; and the lanes are disjoint. -/
theorem tableEntriesStayInTheirLanes : Obligations.TableEntriesStayInTheirLanes :=
  ⟨fun n table => ⟨scatter32_byte n table, lane_setBits n table⟩, by decide,
    fun _ i table _ => sboxEntry_outside_lane table i, fun n k hn hk => lanes_disjoint n hn k hk,
    fun a b c d _ _ _ _ => sboxEntries_or_eq_xor a b c d⟩

end Sys2Proof.Machine
end

section
/-! The substitution tables (42_sbox.md): the entry formula over numbers, what SBOX.BUILD and SBOX.READ answer, and why
the entries of one table and row are distinct. -/

namespace Sys2Proof.Machine

open Polynomial

/-! The entry formula (42_sbox.md R112, R113). -/

theorem sboxColumn_ofNat (i : Nat) : sboxColumn (BitVec.ofNat 10 i) = BitVec.ofNat 8 (i / 2 % 256) := by
  apply BitVec.eq_of_toNat_eq
  simp only [sboxColumn, BitVec.extractLsb'_toNat, BitVec.toNat_ofNat, Nat.shiftRight_eq_div_pow]
  omega

theorem sboxRow_ofNat (i : Nat) : (sboxRow (BitVec.ofNat 10 i)).toNat = i % 2 + 2 * (i / 512 % 2) := by
  rw [sboxRow, BitVec.toNat_append, ← Nat.shiftLeft_add_eq_or_of_lt (BitVec.isLt _)]
  simp only [BitVec.extractLsb'_toNat, BitVec.toNat_ofNat, Nat.shiftRight_eq_div_pow, Nat.shiftLeft_eq]
  omega

theorem sboxEntry_eq_entryByNumbers (n i : Nat) : sboxEntry n i = entryByNumbers n i := by
  rw [sboxEntry, sboxByte, sboxColumn_ofNat, sboxRow_ofNat, entryByNumbers]

/-! The commands (42_sbox.md R114, R115). -/

/-- The state SBOX.BUILD leaves. -/
def State.afterBuild (s : State) : State :=
  State.done { s with sbox := some builtTables, status := flagsAfterBuild s.status }

theorem exec_sboxBuild (s : State) : exec .sboxBuild s = .next s.afterBuild := finish_eq _

theorem exec_sboxRead {s : State} (valid : s.status.sboxValid = true) (n i : Nat) :
    exec (.sboxRead n i) s = .next (s.setRes0 (s.sboxRead n i)).done :=
  ((execSboxRead_cases n i s).resolve_left fun ⟨unset, _⟩ => Bool.noConfusion (unset.symm.trans valid)).2

theorem sboxRead_of_built {s : State} {n i : Nat} (built : s.sbox = some builtTables) (table : n < 4)
    (index : i < 1024) : s.sboxRead n i = sboxEntry n i := by
  rw [State.sboxRead, built, sboxLookup_built table index]

/-- Settles O34: the state after a build already holds what a second build writes. -/
theorem sboxBuildFillsEveryEntry : Obligations.SboxBuildFillsEveryEntry := fun s =>
  ⟨s.afterBuild, exec_sboxBuild s, rfl,
    fun n i table index => (sboxRead_of_built rfl table index).trans (sboxEntry_eq_entryByNumbers n i),
    exec_sboxBuild s.afterBuild⟩

/-- Settles O35: the invariant says that valid tables are the built ones. -/
theorem sboxReadReturnsTheEntry : Obligations.SboxReadReturnsTheEntry := by
  intro s n i inv valid table index
  have built : s.sbox = some builtTables := inv.tablesBuilt.trans (if_pos valid)
  rw [exec_sboxRead valid, sboxRead_of_built built table index, sboxEntry_eq_entryByNumbers]
  rfl

/-! The seventh power is injective modulo a modulus whose polynomial divides x^256 - x (40_gf_arith.md R94, law 5): there
every class is its own 256th power, so the 73rd power undoes the seventh, for 7 * 73 = 256 + 255. -/

theorem bitPolynomial_injective {k : Nat} : Function.Injective (bitPolynomial (n := k)) := by
  intro v w same
  refine BitVec.eq_of_getLsbD_eq fun j _ => ?_
  have bit : (if v.getLsbD j = true then (1 : ZMod 2) else 0) = if w.getLsbD j = true then 1 else 0 := by
    rw [← bitPolynomial_coeff, same, bitPolynomial_coeff]
  cases hv : v.getLsbD j <;> cases hw : w.getLsbD j <;> simp [hv, hw] at bit ⊢

/-- Over GF(2) the power 2^k of p(x) is p(x^(2^k)). -/
theorem pow_two_pow_eq_expand (k : Nat) (p : (ZMod 2)[X]) : p ^ 2 ^ k = expand (ZMod 2) (2 ^ k) p := by
  induction k with
  | zero => simp
  | succ k ih => rw [pow_succ, pow_mul, ih, ← ZMod.expand_card, expand_expand, mul_comm]

/-- The square of a byte by gfMultiply. -/
def gfSquare (m : Modulus) (b : Byte) : Byte := gfMultiply b b m

/-- The byte 2 is x. -/
theorem residue_x (m : Modulus) : residue m (2 : Byte) = AdjoinRoot.root (bitPolynomial m) := by
  have one : bitPolynomial (1 : Byte) = 1 := by
    rw [bitPolynomial_eq_low_add_shiftRight, show (1 : Byte) >>> 1 = 0 from rfl, bitPolynomial_zero, mul_zero, add_zero]
    exact if_pos rfl
  rw [show (2 : Byte) = (1 : Byte) <<< 1 from rfl, residue_shiftLeft_one m rfl, residue, one, map_one, mul_one]

section
variable {m : Modulus} (monic : m.getLsbD 8 = true)
include monic

theorem residue_injective : Function.Injective (residue m (n := 8)) := fun _ b same =>
  bitPolynomial_injective
    ((bitPolynomial_eq_modByMonic monic same).trans (bitPolynomial_eq_modByMonic (r := b) monic rfl).symm)

theorem residue_gfSquare_iterate (k : Nat) (b : Byte) : residue m ((gfSquare m)^[k] b) = residue m b ^ 2 ^ k := by
  induction k with
  | zero => simp
  | succ k ih =>
    rw [Function.iterate_succ_apply', gfSquare, residue_gfMultiply monic, ih]
    ring

variable (back : (gfSquare m)^[8] 2 = 2)
include back

/-- If x is its own 256th power modulo m(x), then so is every class. -/
theorem mk_pow_256 (p : (ZMod 2)[X]) :
    AdjoinRoot.mk (bitPolynomial m) p ^ 2 ^ 8 = AdjoinRoot.mk (bitPolynomial m) p := by
  have root : AdjoinRoot.root (bitPolynomial m) ^ 2 ^ 8 = AdjoinRoot.root (bitPolynomial m) := by
    rw [← residue_x, ← residue_gfSquare_iterate monic, back]
  rw [← map_pow, pow_two_pow_eq_expand, ← AdjoinRoot.aeval_eq, expand_aeval, root, AdjoinRoot.aeval_eq]

theorem residue_gfExp7_pow (b : Byte) : residue m (gfExp7 b m) ^ 73 = residue m b :=
  calc residue m (gfExp7 b m) ^ 73
    _ = residue m b ^ 2 ^ 8 * residue m b ^ 255 := by rw [residue_gfExp7 monic]; ring
    _ = residue m b * residue m b ^ 255 := by rw [residue, mk_pow_256 monic back]
    _ = residue m b := by rw [← pow_succ', residue]; exact mk_pow_256 monic back _

theorem gfExp7_injective : Function.Injective (gfExp7 · m) := by
  intro a b (same : gfExp7 a m = gfExp7 b m)
  apply residue_injective monic
  rw [← residue_gfExp7_pow monic back a, same, residue_gfExp7_pow monic back]

end

/-! Entries of one table and row (42_sbox.md R117). -/

theorem smod_monic : ∀ n < 4, ∀ row < 4, (smod n row).getLsbD 8 = true := by decide

/-- Each polynomial of SMOD divides x^256 - x. -/
theorem gfSquare_smod_back : ∀ n < 4, ∀ row < 4, (gfSquare (smod n row))^[8] 2 = 2 := by decide

/-- A byte shifted to a place inside the word is still there. -/
theorem byte_in_place_injective {k : Nat} (inside : k ≤ 24) :
    Function.Injective fun b : Byte => b.setWidth 32 <<< k := by
  intro a b same
  refine BitVec.eq_of_getLsbD_eq fun i low => ?_
  have bit := congrArg (·.getLsbD (k + i)) same
  simpa [show k + i < 32 by omega, show i < 32 by omega, -BitVec.getLsbD_eq_getElem] using bit

theorem entryByNumbers_indexOf {row col : Nat} (hrow : row < 4) (hcol : col < 256) (n : Nat) :
    entryByNumbers n (indexOf row col) =
      scatter32 ((gfExp7 (BitVec.ofNat 8 col ^^^ sxor n row) (smod n row)).setWidth 32 <<< (8 * (3 - n))) := by
  have column : indexOf row col / 2 % 256 = col := by rw [indexOf]; omega
  have rowBits : indexOf row col % 2 + 2 * (indexOf row col / 512 % 2) = row := by rw [indexOf]; omega
  rw [entryByNumbers, column, rowBits]

/-- Settles O37: every step from the column to the entry is injective. -/
theorem entriesOfOneRowAreDistinct : Obligations.EntriesOfOneRowAreDistinct := by
  intro n row a b table hrow ha hb same
  rw [sboxEntry_eq_entryByNumbers, sboxEntry_eq_entryByNumbers, entryByNumbers_indexOf hrow ha,
    entryByNumbers_indexOf hrow hb] at same
  have powers := byte_in_place_injective (by omega) (scatter32_injective same)
  have bases := gfExp7_injective (smod_monic n table row hrow) (gfSquare_smod_back n table row hrow) powers
  have columns : BitVec.ofNat 8 a = BitVec.ofNat 8 b := (BitVec.xor_left_inj _).mp bases
  simpa [Nat.mod_eq_of_lt ha, Nat.mod_eq_of_lt hb] using congrArg BitVec.toNat columns

end Sys2Proof.Machine
end

section
/-! The checksums of the tables (42_sbox.md R117), by exhaustive evaluation as in the spec. To keep it
cheap, an entry is computed from numbers, as the kernel evaluates the functions of Nat directly on literals, and from the
eight positions of the scatter that can hold a 1. -/

namespace Sys2Proof.Machine

/-! gfMultiply and gfExp7 on numbers (40_gf_arith.md R90, R91). -/

/-- n passes of the loop of gfMultiply, with products in place of its tests. -/
def gfMultiplyNat (m : Nat) : Nat → Nat → Nat → Nat → Nat
  | 0, res, _, _ => res
  | n + 1, res, aa, bb =>
    gfMultiplyNat m n (Nat.xor res (Nat.mul (Nat.mod bb 2) aa))
      (Nat.xor (Nat.mul 2 aa) (Nat.mul (Nat.div (Nat.mul 2 aa) 256) m)) (Nat.div bb 2)

/-- The seventh power as gfExp7 takes it. -/
def gfExp7Nat (m b : Nat) : Nat :=
  let x2 := gfMultiplyNat m 8 0 b b
  let x3 := gfMultiplyNat m 8 0 b x2
  let x6 := gfMultiplyNat m 8 0 x3 x3
  gfMultiplyNat m 8 0 b x6

section
variable {m aa : Modulus} (res bb : Byte)

theorem modulus_lt_256 (below : aa.getLsbD 8 = false) : aa.toNat < 256 :=
  Nat.lt_of_not_le fun reached => Bool.noConfusion (below.symm.trans ((modulus_ge_256_iff aa).mp reached))

theorem modulus_double_toNat (below : aa.getLsbD 8 = false) : (aa <<< 1).toNat = 2 * aa.toNat := by
  have small := modulus_lt_256 below
  rw [BitVec.toNat_shiftLeft, Nat.shiftLeft_eq]
  omega

theorem gfShiftReduce_toNat (below : aa.getLsbD 8 = false) (m : Modulus) :
    (gfShiftReduce aa m).toNat = 2 * aa.toNat ^^^ 2 * aa.toNat / 256 * m.toNat := by
  have double := modulus_double_toNat below
  have bound := (aa <<< 1).isLt
  rw [gfShiftReduce]
  split
  · have one : 2 * aa.toNat / 256 = 1 := by omega
    rw [BitVec.toNat_xor, double, one, Nat.one_mul]
  · have none : 2 * aa.toNat / 256 = 0 := by omega
    rw [double, none, Nat.zero_mul, Nat.xor_zero]

theorem gfAccumulate_toNat (below : aa.getLsbD 8 = false) :
    (gfAccumulate res aa bb).toNat = res.toNat ^^^ bb.toNat % 2 * aa.toNat := by
  have byte : (aa.setWidth 8).toNat = aa.toNat :=
    (BitVec.toNat_setWidth 8 aa).trans (Nat.mod_eq_of_lt (modulus_lt_256 below))
  have low : bb.getLsbD 0 = decide (bb.toNat % 2 = 1) := by
    rw [← BitVec.testBit_toNat, Nat.testBit_zero]
  rw [gfAccumulate, low]
  rcases Nat.mod_two_eq_zero_or_one bb.toNat with even | odd
  · simp [even]
  · simp [odd, byte]

/-- A pass once `bb` is empty changes nothing, so the loop's early end need not be told apart. -/
theorem gfMultiplyLoop_pass (m aa : Modulus) (n : Nat) : gfMultiplyLoop m (n + 1) res aa bb =
    gfMultiplyLoop m n (gfAccumulate res aa bb) (gfShiftReduce aa m) (bb >>> 1) := by
  by_cases finished : bb = 0
  · subst finished
    exact (gfMultiplyLoop_zero m aa res (n + 1)).trans (gfMultiplyLoop_zero m _ res n).symm
  · exact gfMultiplyLoop_succ finished m aa res n

end

theorem gfMultiplyLoop_toNat {m : Modulus} (monic : m.getLsbD 8 = true) {n : Nat} {aa : Modulus} {res bb : Byte}
    (below : aa.getLsbD 8 = false) :
    (gfMultiplyLoop m n res aa bb).toNat = gfMultiplyNat m.toNat n res.toNat aa.toNat bb.toNat := by
  induction n generalizing aa res bb with
  | zero => rfl
  | succ n ih =>
    rw [gfMultiplyLoop_pass, ih (gfShiftReduce_below monic aa), gfAccumulate_toNat res bb below,
      gfShiftReduce_toNat below, BitVec.toNat_ushiftRight, Nat.shiftRight_eq_div_pow]
    rfl

theorem gfMultiply_toNat {m : Modulus} (monic : m.getLsbD 8 = true) (a b : Byte) :
    (gfMultiply a b m).toNat = gfMultiplyNat m.toNat 8 0 a.toNat b.toNat := by
  have widened : (a.setWidth 9).toNat = a.toNat := BitVec.toNat_setWidth_of_le (by decide)
  rw [gfMultiply, gfMultiplyLoop_toNat monic (by simp), widened]
  rfl

/-- The four products give 0 for 0 as well. -/
theorem gfExp7_toNat {m : Modulus} (monic : m.getLsbD 8 = true) (b : Byte) :
    (gfExp7 b m).toNat = gfExp7Nat m.toNat b.toNat := by
  simp only [gfExp7Nat, ← gfMultiply_toNat monic]
  rw [gfExp7]
  split
  · next zero =>
    have product (a : Byte) : gfMultiply a 0 m = 0 := gfMultiplyLoop_zero m _ 0 8
    simp only [zero, product]
  · rfl

/-! The scatter of one byte. -/

/-- Only the eight positions of its place can hold a 1 of a shifted byte. -/
theorem scatter32_byte_in_place {k : Nat} (inside : k ≤ 24) (b : Byte) :
    scatter32 (b.setWidth 32 <<< k) = (List.range' k 8).foldl (scatterBit (b.setWidth 32 <<< k)) 0 := by
  have below : ∀ i ∈ List.range' 0 k, (b.setWidth 32 <<< k).getLsbD i = false := fun i listed => by
    have outside : i < k := by simpa using listed
    simp [outside]
  have above : ∀ i ∈ List.range' (k + 8) (24 - k), (b.setWidth 32 <<< k).getLsbD i = false := fun i listed => by
    have outside : 8 ≤ i - k := by have := (List.mem_range'_1.mp listed).1; omega
    simp [BitVec.getLsbD_of_ge b _ outside, -BitVec.getLsbD_eq_getElem]
  have cut : List.range 32 = List.range' 0 k ++ (List.range' k 8 ++ List.range' (k + 8) (24 - k)) := by
    rw [List.range_eq_range', show 32 = k + (8 + (24 - k)) by omega, ← List.range'_append_1, Nat.zero_add,
      ← List.range'_append_1]
  rw [scatter32, cut, List.foldl_append, List.foldl_append, foldl_scatterBit_of_clear below,
    foldl_scatterBit_of_clear above]

/-- The entry formula of 42_sbox.md R113 with its byte computed on numbers and scattered over the eight positions of its
place. -/
def entryOnNumbers (n i : Nat) : Word :=
  let row := i % 2 + 2 * (i / 512 % 2)
  let v := gfExp7Nat (smod n row).toNat (Nat.xor (i / 2 % 256) (sxor n row).toNat)
  (List.range' (8 * (3 - n)) 8).foldl (scatterBit (BitVec.ofNat 32 v <<< (8 * (3 - n)))) 0

theorem sboxEntry_eq_entryOnNumbers {n : Nat} (table : n < 4) (i : Nat) : sboxEntry n i = entryOnNumbers n i := by
  have monic : (smod n (i % 2 + 2 * (i / 512 % 2))).getLsbD 8 = true := smod_monic n table _ (by omega)
  have column : (BitVec.ofNat 8 (i / 2 % 256)).toNat = i / 2 % 256 := by simp
  rw [sboxEntry_eq_entryByNumbers, entryByNumbers, scatter32_byte_in_place (by omega), ← BitVec.ofNat_toNat,
    gfExp7_toNat monic, BitVec.toNat_xor, column]
  rfl

/-! The checksums (42_sbox.md R117). -/

/-- Table number, sum and weighted sum of each row of R117; its XORs are all 0. -/
def checksumRows : List (Nat × Word × Word) :=
  [(0, 0x28308400, 0x408FBB40), (1, 0x85042800, 0xD2A3AC00), (2, 0x02825000, 0x76A6DBC0), (3, 0x50490200, 0x09921BD0)]

theorem checksumRows_table : ∀ row ∈ checksumRows, row.1 < 4 := by decide

/-- R117's exhaustive evaluation, by the kernel. -/
theorem checksums_entryOnNumbers : ∀ row ∈ checksumRows,
    tableXor (entryOnNumbers row.1) = 0 ∧ tableSum (entryOnNumbers row.1) = row.2.1 ∧
      tableWeightedSum (entryOnNumbers row.1) = row.2.2 := by
  decide +kernel

/-- Settles O60: the tables a build leaves have the entries whose sums were evaluated. -/
theorem constantTablesReproduceTheChecksums : Obligations.ConstantTablesReproduceTheChecksums := by
  refine ⟨fun s => ⟨s.afterBuild, exec_sboxBuild s, fun row (listed : row ∈ checksumRows) => ?_⟩, by decide⟩
  have table : row.1 < 4 := checksumRows_table row listed
  have reads (i : Nat) (index : i < 1024) : s.afterBuild.sboxRead row.1 i = entryOnNumbers row.1 i :=
    (sboxRead_of_built rfl table index).trans (sboxEntry_eq_entryOnNumbers table i)
  rw [tableXor_congr reads, tableSum_congr reads, tableWeightedSum_congr reads]
  exact checksums_entryOnNumbers row listed

end Sys2Proof.Machine
end

section
/-! The context and the key scheduler (43_keysched.md): CTX.CONFIG by level, the closed form of the rounds that a chunk
writes (R138), a whole key chunk by chunk (R139), and KS.READ. -/

namespace Sys2Proof.Machine

/-! CTX.CONFIG (43_keysched.md R133). -/

theorem exec_ctxConfig_degenerate {s : State} (low : s.op0.toInt < 1) :
    exec .ctxConfig s = .next (s.configure 1 8 true).done :=
  if_pos low

theorem exec_ctxConfig_general {s : State} (low : 1 ≤ s.op0.toInt) (high : s.op0.toInt ≤ s.maxLevel) :
    exec .ctxConfig s = .next (s.configure s.op0.toInt.toNat (16 * s.op0.toInt.toNat) false).done :=
  (if_neg (not_lt.mpr low)).trans (if_neg (not_lt.mpr high))

theorem ctxcfgWord_degenerate : ctxcfgWord ⟨1, 8⟩ = 0x00080001 := by decide

/-- Settles O38: the test `level < 1` comes first. -/
theorem levelBelowOneGivesDegenerateMode : Obligations.LevelBelowOneGivesDegenerateMode :=
  fun s low => ⟨(s.configure 1 8 true).done, exec_ctxConfig_degenerate low, ctxcfgWord_degenerate, rfl, rfl⟩

/-- Settles O39: SIZE and ROUNDS fit in 16 bits, since the level is at most 4095. -/
theorem levelUpToMaxLevelConfiguresTheContext : Obligations.LevelUpToMaxLevelConfiguresTheContext := by
  intro s maxFits low high
  refine ⟨_, exec_ctxConfig_general low high, ?_, ?_, rfl, rfl⟩
  · simp only [State.done_ctxcfg, State.configure_ctxcfg, BitVec.toNat_ofNat]
    omega
  · simp only [State.done_ctxcfg, State.configure_ctxcfg, BitVec.toNat_ofNat]
    omega

/-! One round of the schedule (43_keysched.md R136, R138). -/

/-- Settles O42: every bit of a subkey word from bit 20 up is 0. -/
theorem subkeyWordsHaveTwentyBits : Obligations.SubkeyWordsHaveTwentyBits := roundSubkey_is20

theorem subkeyWord_lt_of_is20 {sk : Subkey} (is20 : subkeyIs20 sk) (w : Nat) : (subkeyWord sk w).toNat < 2 ^ 20 := by
  obtain ⟨h0, h1, h2⟩ := is20
  unfold subkeyWord
  split <;> assumption

theorem scheduleWord_getLsbD (kb : KeyBuffer) (base q i w : Nat) {b : Nat} (inside : b < 32) :
    (scheduleWord kb base q i w).getLsbD b = scheduleBit kb base q i w b := by
  refine BitVec.getLsbD_ofBoolListLE.trans ?_
  simp [inside]

/-- Round i of call q starts from the buffer after 120q + 15i shifts. -/
theorem roundSubkey_eq_scheduleWord (kb : KeyBuffer) (base q i : Nat) {w : Nat} (hw : w < 3) :
    subkeyWord (roundSubkey (rot (base + i)) (shiftAll (120 * q + 15 * i) kb)).1 w = scheduleWord kb base q i w := by
  refine BitVec.eq_of_getLsbD_eq fun b inside => ?_
  rw [roundSubkey_getLsbD _ _ _ hw inside, scheduleWord_getLsbD _ _ _ _ _ inside]
  rfl

/-! The rounds of one chunk (43_keysched.md R134, R137). -/

section
variable (ks : KeySchedule) (kb : KeyBuffer) {rounds c i : Nat}

theorem ksFind_scheduleChunk_degenerate (inGroup : i < 8) : ksFind (scheduleChunk true rounds c (ks, kb)).1 i =
    some (roundSubkey (rot (0 + i)) (shiftAll (120 * 0 + 15 * i) kb)).1 := by
  simpa [scheduleChunk_degenerate] using (buildRoundKeys_eq 0 0 0 ks kb).2 i inGroup

/-- The first group of eight is still there after the second call, whose rounds are all above it. -/
theorem ksFind_scheduleChunk_first (apart : 16 * c + 16 ≤ rounds) (inGroup : i < 8) :
    ksFind (scheduleChunk false rounds c (ks, kb)).1 (8 * c + i) =
      some (roundSubkey (rot (0 + i)) (shiftAll (120 * 0 + 15 * i) kb)).1 := by
  rw [scheduleChunk_general, buildRoundKeys_other _ _ _ (by omega)]
  exact (buildRoundKeys_eq (8 * c) 0 0 ks kb).2 i inGroup

/-- The second call goes on from the buffer that the first left, 120 shifts on. -/
theorem ksFind_scheduleChunk_second (inGroup : i < 8) :
    ksFind (scheduleChunk false rounds c (ks, kb)).1 (rounds - 8 - 8 * c + i) =
      some (roundSubkey (rot (8 + i)) (shiftAll (120 * 1 + 15 * i) kb)).1 := by
  have first : buildRoundKeys (8 * c) 0 (ks, kb) = ((buildRoundKeys (8 * c) 0 (ks, kb)).1, shiftAll 120 kb) :=
    Prod.ext rfl (buildRoundKeys_eq (8 * c) 0 0 ks kb).1
  rw [scheduleChunk_general, first]
  exact (buildRoundKeys_eq (rounds - 8 - 8 * c) 8 120 _ kb).2 i inGroup

end

theorem ksRead_of_found {s : State} {r : Nat} {sk : Subkey} (found : ksFind s.ks r = some sk) (w : Nat) :
    s.ksRead r w = subkeyWord sk w := by
  simp only [State.ksRead, found]

/-- Chunk c of a general-mode key, of words hi and lo, stands in the schedule at its closed form, both groups of eight
rounds (43_keysched.md R138, R139). -/
def ChunkScheduled (s : State) (c : Nat) (hi lo : Word) : Prop :=
  ∀ i w : Nat, i < 8 → w < 3 →
    s.ksRead (8 * c + i) w = scheduleWord (chunkBuffer hi lo) 0 0 i w ∧
    s.ksRead (s.ctxcfg.rounds.toNat - 8 - 8 * c + i) w = scheduleWord (chunkBuffer hi lo) 8 1 i w

/-! KEY.CHUNK (43_keysched.md R134). -/

/-- The state after a successful KEY.CHUNK c. -/
def State.afterChunk (s : State) (c : Nat) : State := (s.loadChunk c).done

section
variable {s : State} {c : Nat}

@[simp] theorem State.afterChunk_ctxcfg : (s.afterChunk c).ctxcfg = s.ctxcfg := rfl

@[simp] theorem State.afterChunk_status : (s.afterChunk c).status =
    { flagsAfterChunk s.status s.ctxcfg.size.toNat c with err := .success } := rfl

theorem State.afterChunk_ks : (s.afterChunk c).ks =
    (scheduleChunk s.status.degen s.ctxcfg.rounds.toNat c (s.ks, chunkBuffer s.op0 s.op1)).1 := rfl

theorem exec_keyChunk (context : s.status.cfgValid = true) (inKey : c < s.ctxcfg.size.toNat)
    (inOrder : c = 0 ∨ c = s.status.nextChunk.toNat) : exec (.keyChunk c) s = .next (s.afterChunk c) := by
  have order : s.chunkOutOfOrder c = false := chunkOutOfOrder_eq_false_iff.mpr ⟨inKey, inOrder⟩
  exact (if_neg (by simp [context])).trans (if_neg (by simp [order]))

theorem afterChunk_nextChunk_toNat (inKey : c < s.ctxcfg.size.toNat) :
    (s.afterChunk c).status.nextChunk.toNat = c + 1 := by
  have := s.ctxcfg.size.isLt
  simp only [State.afterChunk_status, flagsAfterChunk_nextChunk, BitVec.toNat_ofNat]
  omega

theorem afterChunk_ksValid_of_last (last : c + 1 = s.ctxcfg.size.toNat) : (s.afterChunk c).status.ksValid = true :=
  if_pos last

theorem afterChunk_ksRead_degenerate (mode : s.status.degen = true) {i w : Nat} (inGroup : i < 8) (hw : w < 3) :
    (s.afterChunk c).ksRead i w = scheduleWord (chunkBuffer s.op0 s.op1) 0 0 i w := by
  refine (ksRead_of_found ?_ w).trans (roundSubkey_eq_scheduleWord _ 0 0 i hw)
  rw [State.afterChunk_ks, mode]
  exact ksFind_scheduleChunk_degenerate _ _ inGroup

/-- The rounds outside a chunk read as before it. -/
theorem afterChunk_ksRead_other {r : Nat} (outside : ¬chunkRound s.status.degen s.ctxcfg.rounds.toNat c r) (w : Nat) :
    (s.afterChunk c).ksRead r w = s.ksRead r w :=
  ksRead_congr (scheduleChunk_other outside) w

section
variable (mode : s.status.degen = false) (roundsEq : s.ctxcfg.rounds.toNat = 16 * s.ctxcfg.size.toNat)
include mode roundsEq

theorem afterChunk_scheduled (inKey : c < s.ctxcfg.size.toNat) :
    ChunkScheduled (s.afterChunk c) c s.op0 s.op1 := by
  refine fun i w inGroup hw => ⟨(ksRead_of_found ?_ w).trans (roundSubkey_eq_scheduleWord _ 0 0 i hw),
    (ksRead_of_found ?_ w).trans (roundSubkey_eq_scheduleWord _ 8 1 i hw)⟩
  · rw [State.afterChunk_ks, mode]
    exact ksFind_scheduleChunk_first _ _ (by omega) inGroup
  · rw [State.afterChunk_ks, mode]
    exact ksFind_scheduleChunk_second _ _ inGroup

theorem afterChunk_ksRead_chunk_zero (positive : 0 < s.ctxcfg.size.toNat) {i w : Nat} (inGroup : i < 8) (hw : w < 3) :
    (s.afterChunk 0).ksRead i w = scheduleWord (chunkBuffer s.op0 s.op1) 0 0 i w := by
  obtain ⟨first, -⟩ := afterChunk_scheduled mode roundsEq positive i w inGroup hw
  rwa [Nat.mul_zero, Nat.zero_add] at first

/-- No two chunks of a key share a round (43_keysched.md R139). -/
theorem afterChunk_keeps_scheduled {j : Nat} {hi lo : Word} (inKey : c < s.ctxcfg.size.toNat) (earlier : j < c)
    (scheduled : ChunkScheduled s j hi lo) : ChunkScheduled (s.afterChunk c) j hi lo := by
  intro i w inGroup hw
  obtain ⟨first, second⟩ := scheduled i w inGroup hw
  constructor
  · rw [afterChunk_ksRead_other _ w, first]
    rw [mode, chunkRound_general]
    omega
  · rw [State.afterChunk_ctxcfg, afterChunk_ksRead_other _ w, second]
    rw [mode, chunkRound_general]
    omega

end
end

/-- Settles O40: the two groups of a chunk in the key do not overlap. -/
theorem keyChunkSchedulesTheClosedForm : Obligations.KeyChunkSchedulesTheClosedForm :=
  fun c s context mode roundsEq inKey inOrder =>
    ⟨s.afterChunk c, exec_keyChunk context inKey inOrder, rfl, afterChunk_nextChunk_toNat inKey, rfl,
      afterChunk_scheduled mode roundsEq inKey⟩

/-- Settles O41: with SIZE = 1, chunk 0 is the last. -/
theorem degenerateKeyChunkSchedulesEightRounds : Obligations.DegenerateKeyChunkSchedulesEightRounds := by
  intro s context mode sizeEq
  have inKey : 0 < s.ctxcfg.size.toNat := by omega
  refine ⟨s.afterChunk 0, exec_keyChunk context inKey (.inl rfl), rfl, afterChunk_nextChunk_toNat inKey,
    afterChunk_ksValid_of_last (by omega), fun i w => afterChunk_ksRead_degenerate mode, fun r w above => ?_⟩
  refine afterChunk_ksRead_other ?_ w
  rw [mode, chunkRound_degenerate]
  omega

/-! A whole key, chunk by chunk (43_keysched.md R139). -/

theorem loadKey_cons {s t : State} {c : Nat} {hi lo : Word} {rest : List (Word × Word)}
    (answer : exec (.keyChunk c) { s with op0 := hi, op1 := lo } = .next t) :
    loadKey c ((hi, lo) :: rest) s = loadKey (c + 1) rest t := by
  have answer' : execKeyChunk c { s with op0 := hi, op1 := lo } = .next t := answer
  simp only [loadKey, answer']

/-- What holds, in a general-mode context cfg, once the first c chunks of a key are loaded. -/
structure ChunksLoaded (cfg : CtxCfg) (key : List (Word × Word)) (c : Nat) (s : State) : Prop where
  context : s.status.cfgValid = true
  mode : s.status.degen = false
  ctxcfg : s.ctxcfg = cfg
  nextChunk : 0 < c → s.status.nextChunk.toNat = c
  complete : 0 < c → c = cfg.size.toNat → s.status.ksValid = true
  scheduled : ∀ (j : Nat) (hi lo : Word), j < c → key[j]? = some (hi, lo) → ChunkScheduled s j hi lo

section
variable {cfg : CtxCfg} {key : List (Word × Word)}

theorem ChunksLoaded.setOperands {s : State} {c : Nat} (loaded : ChunksLoaded cfg key c s) (hi lo : Word) :
    ChunksLoaded cfg key c { s with op0 := hi, op1 := lo } := { loaded with }

variable (roundsEq : cfg.rounds.toNat = 16 * cfg.size.toNat) (lengthEq : key.length = cfg.size.toNat)
include roundsEq lengthEq

/-- The next chunk of the key, loaded. -/
theorem ChunksLoaded.afterChunk {s : State} {c : Nat} (loaded : ChunksLoaded cfg key c s)
    (chunk : key[c]? = some (s.op0, s.op1)) :
    exec (.keyChunk c) s = .next (s.afterChunk c) ∧ ChunksLoaded cfg key (c + 1) (s.afterChunk c) := by
  obtain ⟨context, mode, rfl, nextEq, -, scheduled⟩ := loaded
  have inKey : c < s.ctxcfg.size.toNat := lengthEq ▸ (List.getElem?_eq_some_iff.mp chunk).1
  have inOrder : c = 0 ∨ c = s.status.nextChunk.toNat := c.eq_zero_or_pos.imp_right fun later => (nextEq later).symm
  refine ⟨exec_keyChunk context inKey inOrder, context, mode, rfl, fun _ => afterChunk_nextChunk_toNat inKey,
    fun _ last => afterChunk_ksValid_of_last last, fun j hi lo upTo listed => ?_⟩
  obtain earlier | rfl := Nat.lt_succ_iff_lt_or_eq.mp upTo
  · exact afterChunk_keeps_scheduled mode roundsEq inKey earlier (scheduled j hi lo earlier listed)
  · obtain ⟨rfl, rfl⟩ := Prod.mk.inj (Option.some.inj (chunk.symm.trans listed))
    exact afterChunk_scheduled mode roundsEq inKey

/-- The chunks of the key from c on, loaded one after the other. -/
theorem loadKey_of_chunksLoaded (rest : List (Word × Word)) : ∀ {c : Nat} {s : State}, ChunksLoaded cfg key c s →
    key.drop c = rest → c ≤ key.length → ∃ t, loadKey c rest s = some t ∧ ChunksLoaded cfg key key.length t := by
  induction rest with
  | nil =>
    intro c s loaded drop inKey
    obtain rfl : c = key.length := le_antisymm inKey (List.drop_eq_nil_iff.mp drop)
    exact ⟨s, rfl, loaded⟩
  | cons head rest ih =>
    intro c s loaded drop inKey
    obtain ⟨hi, lo⟩ := head
    have chunk : key[c]? = some (hi, lo) := by rw [← List.head?_drop, drop]; rfl
    have dropNext : key.drop (c + 1) = rest := by rw [← List.tail_drop, drop]; rfl
    obtain ⟨answer, loadedNext⟩ := (loaded.setOperands hi lo).afterChunk roundsEq lengthEq chunk
    rw [loadKey_cons answer]
    exact ih loadedNext dropNext (List.getElem?_eq_some_iff.mp chunk).1

end

/-- Settles O44: ChunksLoaded holds with no chunk loaded, and each chunk of the key keeps it. -/
theorem loadingAllChunksBuildsTheSchedule : Obligations.LoadingAllChunksBuildsTheSchedule := by
  intro s key context mode lengthEq nonempty roundsEq
  have unloaded : ChunksLoaded s.ctxcfg key 0 s :=
    ⟨context, mode, rfl, fun later => absurd later (lt_irrefl 0), fun later => absurd later (lt_irrefl 0),
      fun j _ _ earlier => absurd earlier j.not_lt_zero⟩
  obtain ⟨t, answer, loaded⟩ := loadKey_of_chunksLoaded roundsEq lengthEq key unloaded rfl (Nat.zero_le _)
  have later : 0 < key.length := List.length_pos_iff.mpr nonempty
  refine ⟨t, answer, loaded.complete later lengthEq, BitVec.eq_of_toNat_eq ((loaded.nextChunk later).trans lengthEq),
    fun c i w hi lo listed => ?_⟩
  have inKey : c < key.length := (List.getElem?_eq_some_iff.mp listed).1
  exact loaded.ctxcfg ▸ loaded.scheduled c hi lo inKey listed i w

/-- A key of one chunk, in any context of SIZE 1. -/
theorem loadKey_one_chunk {s : State} (hi lo : Word) (context : s.status.cfgValid = true)
    (sizeEq : s.ctxcfg.size.toNat = 1) :
    loadKey 0 [(hi, lo)] s = some (State.afterChunk { s with op0 := hi, op1 := lo } 0) :=
  loadKey_cons (exec_keyChunk context (Nat.lt_of_lt_of_eq Nat.one_pos sizeEq.symm) (.inl rfl))

/-- Settles O45: both levels write the closed form with ROT[0..7] of the one chunk to rounds 0 to 7. -/
theorem levelsZeroAndOneShareTheirFirstRounds : Obligations.LevelsZeroAndOneShareTheirFirstRounds := by
  intro s hi lo maxPositive
  have zero : exec .ctxConfig { s with op0 := 0 } = .next (State.configure { s with op0 := 0 } 1 8 true).done :=
    exec_ctxConfig_degenerate (show (0 : Word).toInt < 1 by decide)
  have one : exec .ctxConfig { s with op0 := 1 } = .next (State.configure { s with op0 := 1 } 1 16 false).done :=
    exec_ctxConfig_general (show 1 ≤ (1 : Word).toInt by decide) (Int.ofNat_le.mpr maxPositive)
  refine ⟨_, _, _, _, zero, one, loadKey_one_chunk hi lo rfl rfl, loadKey_one_chunk hi lo rfl rfl,
    afterChunk_ksValid_of_last rfl, afterChunk_ksValid_of_last rfl, rfl, rfl, fun r w hr hw => ?_⟩
  rw [afterChunk_ksRead_degenerate rfl hr hw, afterChunk_ksRead_chunk_zero rfl rfl ?_ hr hw]
  exact Nat.one_pos

/-! KS.READ (43_keysched.md R135). -/

theorem exec_ksRead {s : State} {w : Nat} (context : s.status.cfgValid = true) (key : s.status.ksValid = true)
    (inRange : s.op0.toNat < s.ctxcfg.rounds.toNat) (select : w < 3) :
    exec (.ksRead w) s = .next (s.setRes0 (s.ksRead s.op0.toNat w)).done := by
  have accepted : ¬(s.ctxcfg.rounds.toNat ≤ s.roundIndex ∨ 3 ≤ w) :=
    not_or.mpr ⟨not_le.mpr inRange, not_le.mpr select⟩
  exact (if_neg (by simp [context])).trans ((if_neg (by simp [key])).trans (if_neg accepted))

namespace StateInv

variable {s : State}

theorem context_of_key (h : StateInv s) (key : s.status.ksValid = true) : s.status.cfgValid = true := by
  by_contra unset
  obtain ⟨-, noKey, -⟩ := h.noContext (Bool.eq_false_of_not_eq_true unset)
  exact absurd (key.symm.trans noKey) (by decide)

/-- The chunks' rounds cover the schedule: in general mode the first groups its lower half and, mirrored, the second
groups its upper half (43_keysched.md R139). -/
theorem exists_chunk_of_round (h : StateInv s) (context : s.status.cfgValid = true) {r : Nat}
    (inRange : r < s.ctxcfg.rounds.toNat) :
    ∃ c < s.ctxcfg.size.toNat, chunkRound s.status.degen s.ctxcfg.rounds.toNat c r := by
  cases mode : s.status.degen
  case true =>
    obtain ⟨sizeEq, roundsEq⟩ := h.degenerate context mode
    exact ⟨0, by omega, chunkRound_degenerate.mpr (by omega)⟩
  case false =>
    obtain ⟨-, -, roundsEq⟩ := h.general context mode
    by_cases lower : r < 8 * s.ctxcfg.size.toNat
    · exact ⟨r / 8, by omega, chunkRound_general.mpr (.inl (by omega))⟩
    · exact ⟨(s.ctxcfg.rounds.toNat - 1 - r) / 8, by omega, chunkRound_general.mpr (.inr (by omega))⟩

/-- With a key set, every round below ROUNDS holds a value (10_state.md R35). -/
theorem exists_subkey (h : StateInv s) (key : s.status.ksValid = true) {r : Nat}
    (inRange : r < s.ctxcfg.rounds.toNat) : ∃ sk, ksFind s.ks r = some sk := by
  obtain ⟨c, inKey, ofChunk⟩ := h.exists_chunk_of_round (h.context_of_key key) inRange
  exact Option.isSome_iff_exists.mp (h.ksLoaded c r (h.keySet key ▸ inKey) ofChunk)

end StateInv

/-- Settles O43: a set key fills the schedule, and the invariant keeps its words below 2^20. -/
theorem ksReadReturnsTheSubkeyWord : Obligations.KsReadReturnsTheSubkeyWord := by
  intro s w inv key inRange select
  obtain ⟨sk, found⟩ := inv.exists_subkey key inRange
  obtain ⟨-, is20⟩ := inv.ksEntries _ _ found
  refine ⟨sk, found, subkeyWord_lt_of_is20 is20 w, ?_⟩
  rw [exec_ksRead (inv.context_of_key key) key inRange select, ksRead_of_found found]
  rfl

end Sys2Proof.Machine
end

section
/-! The round function (44_round.md): the bits of its expansion (R160) and of its mixing (R161), the table lanes of its
result (R164), and ROUND.F. -/

namespace Sys2Proof.Machine

/-! ROUND.F (44_round.md R163). -/

theorem exec_roundF {s : State} (valid : s.status.sboxValid = true) : exec .roundF s =
    .next (s.setRes0 (roundFunction s.sbox s.op0 s.roundKey0 s.roundKey1 s.roundKey2)).done :=
  ((execRoundF_cases s).resolve_left fun ⟨unset, _⟩ => Bool.noConfusion (unset.symm.trans valid)).2

theorem exec_roundF_noTables {s : State} (unset : s.status.sboxValid = false) :
    exec .roundF s = .next (s.raise .noTables) :=
  if_pos unset

/-- Settles O49: the command reads OP1 to OP3 only through their low 20 bits. -/
theorem roundFIgnoresUpperOperandBits : Obligations.RoundFIgnoresUpperOperandBits := by
  intro s t a b c low0 low1 low2 ran
  cases valid : s.status.sboxValid
  case false =>
    obtain rfl := Host.Outcome.next.inj ((exec_roundF_noTables valid).symm.trans ran)
    exact exec_roundF_noTables valid
  case true =>
    obtain rfl := Host.Outcome.next.inj ((exec_roundF valid).symm.trans ran)
    have run := exec_roundF (s := { s with op1 := a, op2 := b, op3 := c }) valid
    simp only [State.roundKey0, State.roundKey1, State.roundKey2, low0, low1, low2] at run
    exact run

/-! The lanes of the result (44_round.md R164). -/

theorem sboxEntry_and_other_lane {n k : Nat} (hn : n < 4) (hk : k < 4) (different : n ≠ k) (i : Nat) :
    sboxEntry n i &&& lane k = 0 := by
  rw [← sboxEntry_and_lane hn i, BitVec.and_assoc, lanes_disjoint n hn k hk different]
  exact BitVec.and_zero

theorem combineLookups_built (al ar : Key20) : combineLookups (some builtTables) al ar =
    sboxEntry 0 (al.extractLsb' 10 10).toNat ||| sboxEntry 1 (al.extractLsb' 0 10).toNat |||
      sboxEntry 2 (ar.extractLsb' 10 10).toNat ||| sboxEntry 3 (ar.extractLsb' 0 10).toNat := by
  have entry {t : Nat} (table : t < 4) (i : BitVec 10) :
      sboxLookup (some builtTables) t i.toNat = sboxEntry t i.toNat := sboxLookup_built table i.isLt
  simp only [combineLookups, entry, Nat.reduceLT]

/-- Each lane keeps the entry of its own table and nothing of the other three. -/
theorem entries_and_lane (a b c d : Nat) :
    let r := sboxEntry 0 a ||| sboxEntry 1 b ||| sboxEntry 2 c ||| sboxEntry 3 d
    r &&& lane 0 = sboxEntry 0 a ∧ r &&& lane 1 = sboxEntry 1 b ∧ r &&& lane 2 = sboxEntry 2 c ∧
      r &&& lane 3 = sboxEntry 3 d := by
  simp [BitVec.and_or_distrib_right, sboxEntry_and_lane, sboxEntry_and_other_lane]

/-- Settles O48: the result is the OR of one entry of each built table. -/
theorem roundFResultIsOneEntryPerLane : Obligations.RoundFResultIsOneEntryPerLane := by
  intro s valid built
  refine ⟨_, exec_roundF valid, ?_⟩
  rw [built, roundFunction, combineLookups_built]
  exact entries_and_lane _ _ _ _

/-! The mixing (44_round.md R161). -/

/-- Settles O47, by the value of the bit of sk2. -/
theorem saltSwapsBitsBeforeTheKeyXor : Obligations.SaltSwapsBitsBeforeTheKeyXor := by
  intro tl tr sk0 sk1 sk2 b _
  simp only [mixLeft, mixRight, saltSwap, BitVec.getLsbD_xor, BitVec.getLsbD_and]
  cases sk2.getLsbD b
  case false => simp
  case true => cases tl.getLsbD b <;> simp

/-! The expansion (44_round.md R160): its bits, and from them its fields and the quoted expressions. -/

theorem expandLeft_getLsbD (p : Word) (b : Nat) : (expandLeft p).getLsbD b =
    if b < 10 then p.getLsbD (16 + b) else if b < 18 then p.getLsbD (14 + b)
    else if b < 20 then p.getLsbD (b - 18) else false := by
  simp only [expandLeft, BitVec.getLsbD_append, BitVec.getLsbD_extractLsb']
  grind

theorem expandRight_getLsbD (p : Word) (b : Nat) : (expandRight p).getLsbD b =
    if b < 10 then p.getLsbD b else if b < 20 then p.getLsbD (b - 2) else false := by
  simp only [expandRight, BitVec.getLsbD_append, BitVec.getLsbD_extractLsb']
  grind

section
variable (p : Word) {a k : Nat}

theorem extractLsb'_eq_of_getLsbD_eq {t : Key20} {c : Nat}
    (same : ∀ i < k, t.getLsbD (a + i) = p.getLsbD (c + i)) : t.extractLsb' a k = p.extractLsb' c k :=
  BitVec.eq_of_getLsbD_eq fun i inside => by simp only [BitVec.getLsbD_extractLsb', same i inside]

theorem expandLeft_lowField (fits : a + k ≤ 10) : (expandLeft p).extractLsb' a k = p.extractLsb' (16 + a) k :=
  extractLsb'_eq_of_getLsbD_eq p fun i inside => by grind [expandLeft_getLsbD]

theorem expandLeft_middleField (above : 10 ≤ a) (fits : a + k ≤ 18) :
    (expandLeft p).extractLsb' a k = p.extractLsb' (14 + a) k :=
  extractLsb'_eq_of_getLsbD_eq p fun i inside => by grind [expandLeft_getLsbD]

theorem expandLeft_highField (above : 18 ≤ a) (fits : a + k ≤ 20) :
    (expandLeft p).extractLsb' a k = p.extractLsb' (a - 18) k :=
  extractLsb'_eq_of_getLsbD_eq p fun i inside => by grind [expandLeft_getLsbD]

theorem expandRight_lowField (fits : a + k ≤ 10) : (expandRight p).extractLsb' a k = p.extractLsb' a k :=
  extractLsb'_eq_of_getLsbD_eq p fun i inside => by grind [expandRight_getLsbD]

theorem expandRight_highField (above : 10 ≤ a) (fits : a + k ≤ 20) :
    (expandRight p).extractLsb' a k = p.extractLsb' (a - 2) k :=
  extractLsb'_eq_of_getLsbD_eq p fun i inside => by grind [expandRight_getLsbD]

end

/-! The quoted expressions: unbounded shifts give the bits of the expansion, and 32-bit shifts the same value. -/

theorem testBit_lowMask (i : Nat) : Nat.testBit 0x3FF i = decide (i < 10) := Nat.testBit_two_pow_sub_one 10 i

theorem testBit_highMask (i : Nat) : Nat.testBit 0xFFC00 i = decide (10 ≤ i ∧ i < 20) := by
  rw [show 0xFFC00 = 0x3FF <<< 10 from rfl, Nat.testBit_shiftLeft, testBit_lowMask]
  grind

theorem expandLeft_toNat (p : Word) : (expandLeft p).toNat =
    ((p.toNat >>> 16) &&& 0x3FF) ||| (((p.toNat >>> 14) ||| (p.toNat <<< 18)) &&& 0xFFC00) := by
  refine Nat.eq_of_testBit_eq fun i => ?_
  simp only [BitVec.testBit_toNat, expandLeft_getLsbD, Nat.testBit_or, Nat.testBit_and, Nat.testBit_shiftRight,
    Nat.testBit_shiftLeft, testBit_lowMask, testBit_highMask]
  grind

theorem expandRight_toNat (p : Word) :
    (expandRight p).toNat = (p.toNat &&& 0x3FF) ||| ((p.toNat <<< 2) &&& 0xFFC00) := by
  refine Nat.eq_of_testBit_eq fun i => ?_
  simp only [BitVec.testBit_toNat, expandRight_getLsbD, Nat.testBit_or, Nat.testBit_and, Nat.testBit_shiftLeft,
    testBit_lowMask, testBit_highMask]
  grind

/-- The mask keeps none of the bits that a shift of a 32-bit word loses. -/
theorem mod_and_highMask (x : Nat) : x % 2 ^ 32 &&& 0xFFC00 = x &&& 0xFFC00 := by
  rw [← Nat.and_two_pow_sub_one_eq_mod, Nat.and_assoc]
  rfl

/-- `quotedLeft` and `quotedRight` hold this mask as a cast number. -/
theorem lowMask_toNat : ((0x3FF : Nat) : Word).toNat = 0x3FF := rfl

theorem highMask_toNat : (0xFFC00 : Word).toNat = 0xFFC00 := rfl

theorem quotedLeft_toNat (p : Word) : (quotedLeft p).toNat =
    ((p.toNat >>> 16) &&& 0x3FF) ||| (((p.toNat >>> 14) ||| (p.toNat <<< 18)) &&& 0xFFC00) := by
  simp only [quotedLeft, BitVec.toNat_or, BitVec.toNat_and, BitVec.toNat_ushiftRight, BitVec.toNat_shiftLeft,
    lowMask_toNat, highMask_toNat, Nat.and_or_distrib_right, mod_and_highMask]

theorem quotedRight_toNat (p : Word) :
    (quotedRight p).toNat = (p.toNat &&& 0x3FF) ||| ((p.toNat <<< 2) &&& 0xFFC00) := by
  simp only [quotedRight, BitVec.toNat_or, BitVec.toNat_and, BitVec.toNat_shiftLeft, lowMask_toNat, highMask_toNat,
    mod_and_highMask]

theorem setWidth_eq_of_toNat_eq {t : Key20} {w : Word} (same : t.toNat = w.toNat) : t.setWidth 32 = w :=
  BitVec.eq_of_toNat_eq ((BitVec.toNat_setWidth_of_le (by decide)).trans same)

theorem expandLeft_eq_quotedLeft (p : Word) : (expandLeft p).setWidth 32 = quotedLeft p :=
  setWidth_eq_of_toNat_eq ((expandLeft_toNat p).trans (quotedLeft_toNat p).symm)

theorem expandRight_eq_quotedRight (p : Word) : (expandRight p).setWidth 32 = quotedRight p :=
  setWidth_eq_of_toNat_eq ((expandRight_toNat p).trans (quotedRight_toNat p).symm)

/-- Settles O46: a bit of p appears twice where two of the five fields overlap. -/
theorem expansionAgreesWithTheQuotedExpressions : Obligations.ExpansionAgreesWithTheQuotedExpressions := by
  refine ⟨by decide, fun p => ⟨expandLeft_eq_quotedLeft p, expandRight_eq_quotedRight p, expandLeft_toNat p,
    expandRight_toNat p, fun b inside => ⟨?_, ?_, ?_⟩, fun b inside => ?_,
    expandLeft_highField p (by decide) (by decide), expandRight_lowField p (by decide),
    expandRight_lowField p (by decide), expandRight_highField p (by decide) (by decide),
    expandLeft_lowField p (by decide), expandRight_highField p (by decide) (by decide),
    expandLeft_lowField p (by decide), expandLeft_middleField p (by decide) (by decide)⟩⟩
  · rw [expandLeft_getLsbD, if_pos inside]
  · rw [expandRight_getLsbD, if_pos inside]
  · grind [expandRight_getLsbD]
  · grind [expandLeft_getLsbD]

end Sys2Proof.Machine
end

section
/-! The Feistel engine (45_feistel.md): its two loops as one sequence of passes, what undoes such a sequence (R176), and
what a block result depends on (R177). -/

namespace Sys2Proof.Machine

/-! The passes of the two loops (45_feistel.md R171, R172). -/

/-- The first n passes of a loop whose pass p runs round i p, then round j p. -/
def runPasses (f : Nat → Word → Word) (i j : Nat → Nat) (n : Nat) (h : Halves) : Halves :=
  (List.range n).foldl (fun acc p => feistelPass f (i p) (j p) acc) h

section
variable (f : Nat → Word → Word) (h : Halves)

theorem encryptRounds_eq_runPasses (rounds : Nat) :
    encryptRounds f rounds h = runPasses f (fun p => 2 * p) (fun p => 2 * p + 1) (rounds / 2) h := rfl

theorem decryptRounds_eq_runPasses (rounds : Nat) : decryptRounds f rounds h =
    runPasses f (fun p => rounds - 1 - 2 * p) (fun p => rounds - 2 - 2 * p) (rounds / 2) h := by
  have second (p : Nat) : rounds - 1 - 2 * p - 1 = rounds - 2 - 2 * p := by omega
  simp only [decryptRounds, runPasses, second]

variable (i j : Nat → Nat) (n : Nat)

/-- The last pass comes after the others. -/
theorem runPasses_succ :
    runPasses f i j (n + 1) h = feistelPass f (i n) (j n) (runPasses f i j n h) := by
  simp only [runPasses, List.range_succ, List.foldl_concat]

/-- The first pass comes before the others. -/
theorem runPasses_succ_first : runPasses f i j (n + 1) h =
    runPasses f (fun p => i (p + 1)) (fun p => j (p + 1)) n (feistelPass f (i 0) (j 0) h) := by
  simp only [runPasses, List.range_succ_eq_map, List.foldl_cons, List.foldl_map]

/-- The two sequences of halves that a loop goes through. -/
theorem exists_halves_of_runPasses : ∃ left right : Nat → Word, left 0 = h.left ∧ right 0 = h.right ∧
    (∀ p, left (p + 1) = left p ^^^ f (i p) (right p) ∧ right (p + 1) = right p ^^^ f (j p) (left (p + 1))) ∧
    ∀ n, runPasses f i j n h = ⟨left n, right n⟩ := by
  refine ⟨fun n => (runPasses f i j n h).left, fun n => (runPasses f i j n h).right, rfl, rfl, fun p => ?_,
    fun _ => rfl⟩
  simp only [runPasses_succ, feistelPass, true_and]

end

/-- Passes that run the same rounds in reverse, on the exchanged halves, undo them (45_feistel.md R176). -/
theorem runPasses_undo (f : Nat → Word → Word) (h : Halves) {i j : Nat → Nat} {n : Nat} :
    ∀ {i' j' : Nat → Nat}, (∀ p < n, i' p = j (n - 1 - p) ∧ j' p = i (n - 1 - p)) →
      runPasses f i' j' n ⟨(runPasses f i j n h).right, (runPasses f i j n h).left⟩ = ⟨h.right, h.left⟩ := by
  induction n with
  | zero => exact fun _ => rfl
  | succ n ih =>
    intro i' j' mirrored
    obtain ⟨first, second⟩ : i' 0 = j n ∧ j' 0 = i n := mirrored 0 n.succ_pos
    rw [runPasses_succ_first, runPasses_succ, first, second, feistelPass_undo]
    refine ih fun p inside => ?_
    have index : n + 1 - 1 - (p + 1) = n - 1 - p := by omega
    exact index ▸ mirrored (p + 1) (by omega)

section
variable (f : Nat → Word → Word) (h : Halves) {rounds : Nat} (even : rounds % 2 = 0)
include even

theorem decryptRounds_encryptRounds :
    decryptRounds f rounds ⟨(encryptRounds f rounds h).right, (encryptRounds f rounds h).left⟩ = ⟨h.right, h.left⟩ := by
  rw [decryptRounds_eq_runPasses, encryptRounds_eq_runPasses]
  exact runPasses_undo f h fun p inside => by omega

theorem encryptRounds_decryptRounds :
    encryptRounds f rounds ⟨(decryptRounds f rounds h).right, (decryptRounds f rounds h).left⟩ = ⟨h.right, h.left⟩ := by
  rw [decryptRounds_eq_runPasses, encryptRounds_eq_runPasses]
  exact runPasses_undo f h fun p inside => by omega

end

/-! ENCRYPT and DECRYPT when no check fails (45_feistel.md R173, R174, R175). -/

/-- What a block command makes of s when its checks pass (10_state.md R22). -/
def State.afterBlock (s : State) (out : Halves) : State := (s.setBlock out.left out.right).done

theorem State.afterBlock_eq (s : State) (left right : Word) : s.afterBlock ⟨left, right⟩ =
    { s with res0 := right, res1 := left, status := { s.status with err := .success } } := rfl

section
variable {s : State} (context : s.status.cfgValid = true) (key : s.status.ksValid = true)
  (tables : s.status.sboxValid = true)
include context key tables

theorem blockCommand_ready (out : Halves) : blockCommand s out = .next (s.afterBlock out) := by
  simp [blockCommand, context, key, tables, finish_eq, State.afterBlock]

theorem exec_encrypt : exec .encrypt s =
    .next (s.afterBlock (encryptRounds (scheduledRound s) s.ctxcfg.rounds.toNat ⟨s.op0, s.op1⟩)) :=
  blockCommand_ready context key tables _

theorem exec_decrypt : exec .decrypt s =
    .next (s.afterBlock (decryptRounds (scheduledRound s) s.ctxcfg.rounds.toNat ⟨s.op0, s.op1⟩)) :=
  blockCommand_ready context key tables _

end

/-- Settles O50: the sequences are the halves of its passes. -/
theorem encryptRunsTheRoundsForward : Obligations.EncryptRunsTheRoundsForward := by
  intro s context key tables round
  have same : scheduledRound s = round := funext₂ (scheduledRound_eq s)
  obtain ⟨left, right, left0, right0, passes, halves⟩ := exists_halves_of_runPasses round ⟨s.op0, s.op1⟩
    (fun p => 2 * p) (fun p => 2 * p + 1)
  refine ⟨left, right, left0, right0, fun p _ => passes p, ?_⟩
  rw [exec_encrypt context key tables, same, encryptRounds_eq_runPasses, halves, State.afterBlock_eq]

/-- Settles O51: the sequences are the halves of its passes. -/
theorem decryptRunsTheRoundsBackward : Obligations.DecryptRunsTheRoundsBackward := by
  intro s context key tables round
  have same : scheduledRound s = round := funext₂ (scheduledRound_eq s)
  obtain ⟨left, right, left0, right0, passes, halves⟩ := exists_halves_of_runPasses round ⟨s.op0, s.op1⟩
    (fun p => s.ctxcfg.rounds.toNat - 1 - 2 * p) (fun p => s.ctxcfg.rounds.toNat - 2 - 2 * p)
  refine ⟨left, right, left0, right0, fun p _ => passes p, ?_⟩
  rw [exec_decrypt context key tables, same, decryptRounds_eq_runPasses, halves, State.afterBlock_eq]

/-- Settles O52: each loop undoes the other, and the second command starts from the first one's halves, exchanged. -/
theorem decryptUndoesEncrypt : Obligations.DecryptUndoesEncrypt := by
  refine ⟨fun f rounds h even => ⟨decryptRounds_encryptRounds f h even, encryptRounds_decryptRounds f h even⟩,
    fun s context key tables even => ⟨?_, ?_⟩⟩
  · have undone := decryptRounds_encryptRounds (scheduledRound s) ⟨s.op0, s.op1⟩ even
    exact ⟨_, _, exec_encrypt context key tables, exec_decrypt context key tables,
      congrArg Halves.right undone, congrArg Halves.left undone⟩
  · have undone := encryptRounds_decryptRounds (scheduledRound s) ⟨s.op0, s.op1⟩ even
    exact ⟨_, _, exec_decrypt context key tables, exec_encrypt context key tables,
      congrArg Halves.right undone, congrArg Halves.left undone⟩

/-! What a block result depends on (45_feistel.md R177). -/

/-- A block command that succeeds passed its checks, so it wrote its output. -/
theorem blockCommand_results {s t : State} {out : Halves} (answer : blockCommand s out = .next t)
    (success : t.status.err = .success) : t.res0 = out.right ∧ t.res1 = out.left := by
  rcases blockCommand_cases s out with ⟨-, run⟩ | ⟨-, -, run⟩ | ⟨-, -, -, run⟩ | ⟨-, -, -, run⟩ <;>
    obtain rfl := Host.Outcome.next.inj (run.symm.trans answer)
  case inr.inr.inr => exact ⟨rfl, rfl⟩
  all_goals cases success

/-- Two block commands that succeed with one output give one result. -/
theorem blockCommand_results_congr {s s' t t' : State} {out out' : Halves} (same : out = out')
    (answer : blockCommand s out = .next t) (answer' : blockCommand s' out' = .next t')
    (success : t.status.err = .success) (success' : t'.status.err = .success) :
    t.res0 = t'.res0 ∧ t.res1 = t'.res1 := by
  obtain ⟨res0, res1⟩ := blockCommand_results answer success
  obtain ⟨res0', res1'⟩ := blockCommand_results answer' success'
  rw [res0, res1, res0', res1', same]
  exact ⟨rfl, rfl⟩

/-- The four indices of a round stay inside their tables. -/
theorem roundFunction_congr {tables tables' : Option SboxTables}
    (same : ∀ n k : Nat, n < 4 → k < 1024 → sboxLookup tables n k = sboxLookup tables' n k) (p : Word)
    (sk0 sk1 sk2 : Key20) : roundFunction tables p sk0 sk1 sk2 = roundFunction tables' p sk0 sk1 sk2 := by
  have entry {n : Nat} (table : n < 4) (k : BitVec 10) :
      sboxLookup tables n k.toNat = sboxLookup tables' n k.toNat := same n _ table k.isLt
  simp only [roundFunction, combineLookups, entry, Nat.reduceLT]

/-- Passes see only the rounds that they run. -/
theorem runPasses_congr {f g : Nat → Word → Word} (h : Halves) {i j : Nat → Nat} {n : Nat}
    (same : ∀ p < n, f (i p) = g (i p) ∧ f (j p) = g (j p)) : runPasses f i j n h = runPasses g i j n h := by
  induction n with
  | zero => rfl
  | succ n ih =>
    obtain ⟨first, second⟩ := same n n.lt_succ_self
    rw [runPasses_succ, runPasses_succ, ih fun p inside => same p (by omega)]
    simp only [feistelPass, first, second]

section
variable {f g : Nat → Word → Word} {rounds : Nat} (same : ∀ r < rounds, f r = g r) (h : Halves)
include same

theorem encryptRounds_congr : encryptRounds f rounds h = encryptRounds g rounds h :=
  runPasses_congr h fun _ _ => ⟨same _ (by omega), same _ (by omega)⟩

theorem decryptRounds_congr : decryptRounds f rounds h = decryptRounds g rounds h :=
  runPasses_congr h fun _ _ => ⟨same _ (by omega), same _ (by omega)⟩

end

/-- Settles O53: the frame is that of O24; for the results, the rounds below ROUNDS are the same functions. -/
theorem blockResultDependsOnBlockScheduleAndTablesOnly :
    Obligations.BlockResultDependsOnBlockScheduleAndTablesOnly := by
  refine ⟨fun i s t which answer success => ?frame,
    fun i s s' t t' which op0 op1 rounds schedule entries answer answer' success success' => ?results⟩
  case frame =>
    obtain ⟨changes, -⟩ := blockCommandsChangeOnlyResultsAndErr i s t which answer
    simpa [success] using changes
  case results =>
    have same (r : Nat) (inside : r < s.ctxcfg.rounds.toNat) : scheduledRound s r = scheduledRound s' r := by
      funext p
      simp only [scheduledRound, schedule r _ inside, Nat.reduceLT]
      exact roundFunction_congr entries ..
    have block : (⟨s.blockLeft, s.blockRight⟩ : Halves) = ⟨s'.blockLeft, s'.blockRight⟩ := congrArg₂ Halves.mk op0 op1
    rcases which with rfl | rfl
    · exact blockCommand_results_congr (by rw [encryptRounds_congr same, rounds, block]) answer answer' success success'
    · exact blockCommand_results_congr (by rw [decryptRounds_congr same, rounds, block]) answer answer' success success'

end Sys2Proof.Machine
end

section
/-! NOP and the run of the machine (46_control.md): what NOP writes, and that no run of the host's accesses ends in a
refusal. -/

namespace Sys2Proof.Machine

/-! NOP (46_control.md R190). -/

theorem exec_nop (s : State) : exec .nop s = .next s.done := finish_eq s

theorem decode_nopWord : decode 0x00000000 = .ok .nop := decode_encode (i := .nop) rfl

/-- With OPC 0x00 a nonzero RSV or ARG makes the word illegal (30_encoding.md R76). -/
theorem reservedWord_of_nopOpcode {w : Word} (opc : w.extractLsb' 0 8 = 0)
    (nonzero : w.extractLsb' 8 8 ≠ 0 ∨ w.extractLsb' 16 16 ≠ 0) : ReservedWord w := by
  rw [reservedWord_iff_bits]
  rcases nonzero with rsv | arg
  · exact .inr (.inl rsv)
  · exact .inr (.inr (.inl ⟨by simp [opc], arg⟩))

/-- `done` clears STATUS[3:0] and keeps the other bits: the low half bit by bit, NEXT_CHUNK above it (10_state.md R24). -/
theorem statusWord_done (s : State) : statusWord s.done.status = statusWord s.status &&& 0xFFFFFFF0 := by
  refine BitVec.eq_of_getLsbD_eq fun k inside => ?_
  rw [BitVec.getLsbD_and]
  by_cases low : k < 16
  · rw [statusWord_getLsbD_low _ k low, statusWord_getLsbD_low _ k low]
    interval_cases k <;> simp [errBits]
  · have nextChunk (f : Status) : (statusWord f).getLsbD k = f.nextChunk.getLsbD (k - 16) :=
      BitVec.getLsbD_append.trans (if_neg low)
    have kept : (0xFFFFFFF0 : Word).getLsbD k = true := by
      interval_cases k <;> rfl
    rw [nextChunk, nextChunk, kept, Bool.and_true]
    rfl

/-- Settles O27: NOP is `done`, and the illegal words with its OPC are those of R76. -/
theorem nopClearsErrAndNothingElse : Obligations.NopClearsErrAndNothingElse := by
  refine ⟨decode_nopWord, exec_nop, fun w s opc nonzero => ?illegal, fun s status => ?statusExample⟩
  case illegal => exact runCommand_of_reserved (reservedWord_of_nopOpcode opc nonzero) s
  case statusExample =>
    refine ⟨s.done, (runCommand_ok decode_nopWord s).trans (exec_nop s), ?_⟩
    rw [statusWord_done, status]
    rfl

/-! No refusal (46_control.md R192, R193; 60_exceptions.md R202). -/

theorem regWrite_ne_refused (reg : WindowReg) (v : Word) (s : State) (r : Refusal) :
    regWrite reg v s ≠ .refused r := by
  cases reg with
  | cmd =>
    obtain ⟨t, run⟩ := runCommand_next v s
    simp [regWrite, run]
  | _ => simp [regWrite]

/-- Each of the four kinds of input has its meaning: to wait, to reset, to read or to write. -/
theorem step_ne_refused (s : State) (r : Refusal) : step s ≠ .refused r := by
  unfold step
  split
  · exact nofun
  · exact nofun
  · unfold hostRead
    split <;> exact nofun
  · unfold hostWrite
    split
    · exact regWrite_ne_refused _ _ _ r
    · exact nofun

/-- A machine whose step never refuses has no run that ends in a refusal. -/
theorem run_ne_refused {M : Host.Core} (never : ∀ s r, M.step s ≠ .refused r) (k : Nat) (s : M.State) (r : M.Refusal) :
    M.run k s ≠ .refused r := by
  induction k generalizing s with
  | zero => exact nofun
  | succ k ih =>
    unfold Host.Core.run
    split
    · exact ih _
    · exact nofun
    · next answer => exact absurd answer (never s _)

/-- Settles O16, from step_ne_refused. -/
theorem noRunStopsWithARefusal : Obligations.NoRunStopsWithARefusal :=
  run_ne_refused (M := core) step_ne_refused

end Sys2Proof.Machine
end

section
/-! The errors of 60_exceptions.md: which check decides the end of a command (R205), what a failing command writes
(R203), and that an earlier error blocks nothing (R210). -/

namespace Sys2Proof.Machine

/-! The first failing check decides how a command ends (60_exceptions.md R205). -/

/-- What a command answers from s when `verdict` is its first error: the error raised on s, or else `done`. -/
def EndsAs (s : State) (answer : Result) : Option ErrCode → Prop
  | some e => answer = .next (s.raise e)
  | none => ∃ t : State, answer = .next t.done

theorem endsAs_finish {s : State} (t : State) : EndsAs s (finish t) none := ⟨t, rfl⟩

/-- A check of a command, and the same check in R205's table: the rest decides when it does not fail. -/
theorem endsAs_check {failing listed : Prop} [Decidable failing] [Decidable listed] {s : State} {e : ErrCode}
    {others : Result} {verdict : Option ErrCode} (same : listed ↔ failing) (rest : EndsAs s others verdict) :
    EndsAs s (if failing then failWith e s else others) (if listed then some e else verdict) := by
  by_cases fails : failing
  · rw [if_pos fails, if_pos (same.mpr fails), failWith_eq]
    exact rfl
  · rwa [if_neg fails, if_neg (mt same.mp fails)]

/-- CTX.CONFIG tests for a level below 1 first, and no such level is above MAX_LEVEL (43_keysched.md R133). -/
theorem execCtxConfig_endsAs (s : State) :
    EndsAs s (execCtxConfig s) (if (s.maxLevel : Int) < s.level then some .level else none) := by
  obtain ⟨low, answer⟩ | ⟨high, answer⟩ | ⟨-, inRange, answer⟩ := execCtxConfig_cases s
  · rw [if_neg (by omega), answer]
    exact endsAs_finish _
  · rw [if_pos high, answer]
    exact rfl
  · rw [if_neg (not_lt.mpr inRange), answer]
    exact endsAs_finish _

theorem chunkOutOfOrder_iff {s : State} {c : Nat} : s.chunkOutOfOrder c = true ↔
    s.ctxcfg.size.toNat ≤ c ∨ (c ≠ 0 ∧ c ≠ s.status.nextChunk.toNat) := by
  simp [State.chunkOutOfOrder]

/-- A block command checks the context, the schedule and the tables; R205 lists the same checks for ENCRYPT as for
DECRYPT. -/
theorem blockCommand_endsAs (s : State) (out : Halves) : EndsAs s (blockCommand s out) (firstError .encrypt s) :=
  endsAs_check (and_iff_right rfl) (endsAs_check (and_iff_right rfl) (endsAs_check (and_iff_right rfl)
    (endsAs_finish _)))

/-- A command makes the checks that R205's table lists for it, in the table's order: one check of `exec` for each line
that applies to the command. -/
theorem exec_endsAs {i : Instr} (fits : i.wellFormed = true) (s : State) : EndsAs s (exec i s) (firstError i s) := by
  cases i with
  | nop => exact endsAs_finish _
  | gfMul => exact endsAs_check (by rw [gfModulus_top]) (endsAs_finish _)
  | gfExp7 => exact endsAs_check (by rw [gfModulus_top]) (endsAs_finish _)
  | scatter => exact endsAs_finish _
  | sboxBuild => exact endsAs_finish _
  | sboxRead t k => exact endsAs_check (and_iff_right rfl) (endsAs_finish _)
  | ctxConfig => exact execCtxConfig_endsAs s
  | keyChunk c => exact endsAs_check (and_iff_right rfl) (endsAs_check chunkOutOfOrder_iff.symm (endsAs_finish _))
  | ksRead w =>
    have select : w < 4 := of_decide_eq_true fits
    have outOfRange : s.ctxcfg.rounds.toNat ≤ s.op0.toNat ∨ w = 3 ↔ s.ctxcfg.rounds.toNat ≤ s.roundIndex ∨ 3 ≤ w :=
      or_congr_right (by omega)
    exact endsAs_check (and_iff_right rfl) (endsAs_check (and_iff_right rfl)
      (endsAs_check outOfRange (endsAs_finish _)))
  | roundF => exact endsAs_check (and_iff_right rfl) (endsAs_finish _)
  | encrypt => exact blockCommand_endsAs s _
  | decrypt => exact blockCommand_endsAs s _

theorem exec_of_firstError {i : Instr} {s : State} {e : ErrCode} (fits : i.wellFormed = true)
    (fails : firstError i s = some e) : exec i s = .next (s.raise e) := by
  have ends := exec_endsAs fits s
  rwa [fails] at ends

theorem exec_of_noError {i : Instr} {s : State} (fits : i.wellFormed = true) (passes : firstError i s = none) :
    ∃ t : State, exec i s = .next t.done := by
  have ends := exec_endsAs fits s
  rwa [passes] at ends

/-- Settles O17: the decoder gives well-formed commands only, and the invariant holds a schedule to its context. -/
theorem firstFailingCheckIsReported : Obligations.FirstFailingCheckIsReported :=
  ⟨fun _ s _ illegal => runCommand_error illegal s,
    fun w i s _ legal fails =>
      (runCommand_ok legal s).trans (exec_of_firstError (encodeOfDecodeIsTheWord w i legal).1 fails),
    fun _ _ _ => exec_of_firstError,
    fun _ inv => inv.context_of_key⟩

/-- Settles O18: such a command ends with `done`, and exec_sticky says what becomes of STICKY. -/
theorem commandSucceedsWhenNoCheckFails : Obligations.CommandSucceedsWhenNoCheckFails := by
  intro i s fits passes
  obtain ⟨t, answer⟩ := exec_of_noError fits passes
  exact ⟨t.done, answer, rfl, (exec_sticky answer).trans (by simp)⟩

/-! What a failing command writes (60_exceptions.md R203). -/

theorem exec_of_error {i : Instr} {s t : State} (answer : exec i s = .next t) (error : t.status.err ≠ .success) :
    t = s.raise t.status.err := by
  cases exec_effect answer with
  | failed _ => rfl
  | _ => exact absurd rfl error

theorem runCommand_of_error {w : Word} {s t : State} (answer : runCommand w s = .next t)
    (error : t.status.err ≠ .success) : t = s.raise t.status.err := by
  rcases decoded : decode w with e | i
  · rw [runCommand_error decoded] at answer
    cases answer
    rfl
  · rw [runCommand_ok decoded] at answer
    exact exec_of_error answer error

/-- Settles O19: the one effect of a command with a nonzero ERR is `raise`, and an illegal word raises E_ILLEGAL. -/
theorem failedCommandWritesErrAndStickyOnly : Obligations.FailedCommandWritesErrAndStickyOnly :=
  ⟨fun _ _ _ => exec_of_error, fun _ _ _ => runCommand_of_error⟩

/-! An earlier error blocks nothing (60_exceptions.md R210). -/

/-- No check and no result of a command reads ERR, and both ends of a command overwrite it. -/
theorem exec_congr_err (i : Instr) (s : State) (e : ErrCode) :
    exec i { s with status := { s.status with err := e } } = exec i s := by
  cases i <;> rfl

/-- Settles O21, from exec_congr_err and exec_keeps_sticky. -/
theorem errorOfThePreviousCommandBlocksNothing : Obligations.ErrorOfThePreviousCommandBlocksNothing :=
  fun i s e => ⟨exec_congr_err i s e, fun _ => exec_keeps_sticky⟩

end Sys2Proof.Machine
end

section
/-! Waiting and the context's state machine (70_reset_and_hazards.md R232, R234). -/

namespace Sys2Proof.Machine

/-- Settles O14: `step` looks at the inputs first. -/
theorem nothingHappensWithoutAnInput : Obligations.NothingHappensWithoutAnInput := by
  intro s input
  simp only [step, input]

/-! How a command moves the context state (70_reset_and_hazards.md R234). -/

section
variable {s : State}

theorem contextState_ne_none_iff : contextState s ≠ .none ↔ s.status.cfgValid = true := by
  unfold contextState
  cases s.status.cfgValid <;> cases s.status.ksValid <;> simp

theorem contextState_eq_loading_iff {n : Nat} : contextState s = .loading n ↔
    s.status.cfgValid = true ∧ s.status.ksValid = false ∧ s.status.nextChunk.toNat = n := by
  unfold contextState
  cases s.status.cfgValid <;> cases s.status.ksValid <;> simp

theorem contextState_eq_set_iff : contextState s = .set ↔ s.status.cfgValid = true ∧ s.status.ksValid = true := by
  unfold contextState
  cases s.status.cfgValid <;> cases s.status.ksValid <;> simp

end

section
variable {s : State} {c : Nat}

theorem exec_keyChunk_success_iff {t : State} (answer : exec (.keyChunk c) s = .next t) :
    t.status.err = .success ↔ s.status.cfgValid = true ∧ s.chunkOutOfOrder c = false := by
  obtain ⟨context, run⟩ | ⟨-, order, run⟩ | ⟨context, order, run⟩ := execKeyChunk_cases c s
  · cases run.symm.trans answer
    simp [context]
  · cases run.symm.trans answer
    simp [order]
  · cases run.symm.trans answer
    simp [context, order]

/-- With a key set NEXT_CHUNK is SIZE, so only LOADING(n) has a chunk n of the key to come. -/
theorem StateInv.chunkInOrder_iff (inv : StateInv s) (context : s.status.cfgValid = true) :
    s.chunkOutOfOrder c = false ↔ c < s.ctxcfg.size.toNat ∧ (c = 0 ∨ contextState s = .loading c) := by
  rw [chunkOutOfOrder_eq_false_iff, contextState_eq_loading_iff]
  refine and_congr_right fun inKey => or_congr_right
    ⟨fun next => ⟨context, ?_, next.symm⟩, fun ⟨_, _, next⟩ => next.symm⟩
  refine Bool.eq_false_of_not_eq_true fun key => ?_
  have nextIsSize := congrArg BitVec.toNat (inv.keySet key)
  omega

theorem StateInv.contextState_loadChunk (inv : StateInv s) (context : s.status.cfgValid = true)
    (order : s.chunkOutOfOrder c = false) :
    contextState (s.loadChunk c) = if c + 1 = s.ctxcfg.size.toNat then .set else .loading (c + 1) := by
  have keyIff := inv.loadChunk_ksValid_iff order
  split
  · next last => exact contextState_eq_set_iff.mpr ⟨context, keyIff.mpr last⟩
  · next more =>
    exact contextState_eq_loading_iff.mpr
      ⟨context, Bool.eq_false_of_not_eq_true (mt keyIff.mp more), loadChunk_nextChunk_toNat order⟩

end

/-- CTX.CONFIG and KEY.CHUNK move the context state when they succeed; no other end of a command does. -/
theorem exec_keeps_contextState {i : Instr} {s t : State} (answer : exec i s = .next t)
    (stays : t.status.err ≠ .success ∨ (i ≠ .ctxConfig ∧ ∀ c, i ≠ .keyChunk c)) :
    contextState t = contextState s := by
  cases exec_effect answer with
  | degenerate | configured | loaded => simp at stays
  | _ => rfl

theorem exec_ctxConfig_contextState {s t : State} (answer : exec .ctxConfig s = .next t)
    (success : t.status.err = .success) : contextState t = .loading 0 := by
  cases exec_effect answer with
  | failed error => exact absurd success error
  | degenerate => rfl
  | configured => rfl
  | result v writes => cases writes

/-- Settles O56: what KEY.CHUNK accepts and where it goes, under the invariant; the rest holds in every state. -/
theorem contextMovesAsItsStateMachineSays : Obligations.ContextMovesAsItsStateMachineSays := by
  refine fun s inv => ⟨fun _ => exec_ctxConfig_contextState, fun c t answer success => ?moves,
    fun c t answer => ?accepts, fun _ _ => exec_keeps_contextState⟩
  case moves =>
    obtain ⟨context, order⟩ := (exec_keyChunk_success_iff answer).mp success
    obtain ⟨inKey, inOrder⟩ := chunkOutOfOrder_eq_false_iff.mp order
    cases (exec_keyChunk context inKey inOrder).symm.trans answer
    exact inv.contextState_loadChunk context order
  case accepts =>
    rw [exec_keyChunk_success_iff answer, contextState_ne_none_iff]
    exact and_congr_right inv.chunkInOrder_iff

end Sys2Proof.Machine
end
